-- ==== Sys2Proof/Word.lean ====
section
/-! DEFINITION. The word types of the block and the one operand kind that is a name, not a number
(spec/00_scope.md R14, spec/30_encoding.md R59, R63). -/

namespace Sys2Proof

/-- A byte (R14). -/
abbrev Byte := BitVec 8

/-- A u16 (R14): the CRC, every length and every count. -/
abbrev U16 := BitVec 16

/-- A u32 (R14): milliseconds, binary32 patterns, read-port values. -/
abbrev U32 := BitVec 32

/-- A command word: 64 bits, delivered whole on the command port (R59). -/
abbrev Word := BitVec 64

/-- A read-port index: 17 bits (R36). -/
abbrev Index := BitVec 17

/-- The buffer CRC_COMPUTE covers, field `src` of format C (R63): 0 is TX, 1 is RX. -/
inductive BufSrc where
  | tx
  | rx
deriving DecidableEq, Repr

end Sys2Proof
end

