-- ==== Sys2Proof/Syntax.lean ====
section
/-! DEFINITION. The commands: one constructor per row of spec/opcode_table.json, each operand at the
width of its field (spec/30_encoding.md R60 to R67). -/

namespace Sys2Proof

/-- The seven commands. Every operand is an unsigned integer taken as it stands in the word (R67). -/
inductive Instr where
  /-- CRC_INIT, opcode 0x1, format N (R61). -/
  | crcInit
  /-- CRC_BYTE, opcode 0x2, format B (R62). -/
  | crcByte (b : Byte)
  /-- CRC_COMPUTE, opcode 0x3, format C (R63). -/
  | crcCompute (src : BufSrc) (len : U16)
  /-- ENC_READ_REQ, opcode 0x4, format E (R64). -/
  | encReadReq (dev : Byte) (start count : U16)
  /-- RX_READ_EXACT, opcode 0x5, format R (R65). -/
  | rxReadExact (deadline : U32) (len : U16)
  /-- DEC_FLOAT32, opcode 0x6, format O (R66). -/
  | decFloat32 (off : U16)
  /-- DEC_READING, opcode 0x7, format N (R61). -/
  | decReading
deriving DecidableEq, Repr

/-- The mnemonic of a command, as spec/opcode_table.json spells it. -/
def Instr.mnemonic : Instr → String
  | .crcInit => "CRC_INIT"
  | .crcByte _ => "CRC_BYTE"
  | .crcCompute _ _ => "CRC_COMPUTE"
  | .encReadReq _ _ _ => "ENC_READ_REQ"
  | .rxReadExact _ _ => "RX_READ_EXACT"
  | .decFloat32 _ => "DEC_FLOAT32"
  | .decReading => "DEC_READING"

/-- The opcode `w[63:60]` of a command (R60). -/
def Instr.opcode : Instr → BitVec 4
  | .crcInit => 0x1#4
  | .crcByte _ => 0x2#4
  | .crcCompute _ _ => 0x3#4
  | .encReadReq _ _ _ => 0x4#4
  | .rxReadExact _ _ => 0x5#4
  | .decFloat32 _ => 0x6#4
  | .decReading => 0x7#4

end Sys2Proof
end

