-- ==== Sys2Proof/WellFormed.lean ====
section
/-! DEFINITION. Which command words and which commands are legal (spec/30_encoding.md R67, R68, R69).

A command's operands carry their field's width, and every value of every field is a legal operand
(R67), so the only well-formedness check the spec states is on the WORD: its opcode is defined and no
reserved bit of its format is set. -/

namespace Sys2Proof

/-- A row of spec/opcode_table.json. -/
structure OpcodeRow where
  mnemonic : String
  pattern : Word
  mask : Word
deriving DecidableEq, Repr

/-- spec/opcode_table.json, row by row (R60, R69). -/
def opcodeTable : List OpcodeRow :=
  [ ⟨"CRC_INIT", 0x1000000000000000#64, 0xFFFFFFFFFFFFFFFF#64⟩,
    ⟨"CRC_BYTE", 0x2000000000000000#64, 0xFFFFFFFFFFFFFF00#64⟩,
    ⟨"CRC_COMPUTE", 0x3000000000000000#64, 0xFFFFFFFEFFFF0000#64⟩,
    ⟨"ENC_READ_REQ", 0x4000000000000000#64, 0xFFFF00FF00000000#64⟩,
    ⟨"RX_READ_EXACT", 0x5000000000000000#64, 0xFFFF000000000000#64⟩,
    ⟨"DEC_FLOAT32", 0x6000000000000000#64, 0xFFFFFFFFFFFF0000#64⟩,
    ⟨"DEC_READING", 0x7000000000000000#64, 0xFFFFFFFFFFFFFFFF#64⟩ ]

/-- `(w & mask) == match` (R69). -/
def OpcodeRow.matchesWord (r : OpcodeRow) (w : Word) : Bool := (w &&& r.mask) == r.pattern

/-- A legal command word: some row of the opcode table matches it (R69). -/
def Word.wellFormed (w : Word) : Bool := opcodeTable.any fun r => r.matchesWord w

/-- A well-formed command. R67 takes every operand "as it stands in the word", so a command whose
operands have their fields' widths, which their types say, has nothing left to check. -/
def Instr.wellFormed : Instr → Bool
  | .crcInit => true
  | .crcByte _ => true
  | .crcCompute _ _ => true
  | .encReadReq _ _ _ => true
  | .rxReadExact _ _ => true
  | .decFloat32 _ => true
  | .decReading => true

end Sys2Proof
end

