-- ==== Sys2Proof/Decode.lean ====
section
/-! DEFINITION. The decoder, total on every 64-bit word, and the encoder (spec/30_encoding.md R59 to R69).
`none` is the spec's ILLEGAL: the block rejects such a word with ILLEGAL_COMMAND (R68). -/

namespace Sys2Proof

/-- Field `src` of format C, `w[32]` (R63, R67). -/
def bufSrcOfBit (b : BitVec 1) : BufSrc := if b = 1#1 then .rx else .tx

/-- The bit of field `src` (R63). -/
def bitOfBufSrc : BufSrc → BitVec 1
  | .tx => 0#1
  | .rx => 1#1

/-- `decode(w)` (R69). -/
def decode (w : Word) : Option Instr :=
  let op : BitVec 4 := w.extractLsb 63 60
  if op = 0x1#4 then
    if w.extractLsb 59 0 = 0#60 then some .crcInit else none
  else if op = 0x2#4 then
    if w.extractLsb 59 8 = 0#52 then some (.crcByte (w.extractLsb 7 0)) else none
  else if op = 0x3#4 then
    if w.extractLsb 59 33 = 0#27 ∧ w.extractLsb 31 16 = 0#16 then
      some (.crcCompute (bufSrcOfBit (w.extractLsb 32 32)) (w.extractLsb 15 0))
    else none
  else if op = 0x4#4 then
    if w.extractLsb 59 48 = 0#12 ∧ w.extractLsb 39 32 = 0#8 then
      some (.encReadReq (w.extractLsb 47 40) (w.extractLsb 31 16) (w.extractLsb 15 0))
    else none
  else if op = 0x5#4 then
    if w.extractLsb 59 48 = 0#12 then
      some (.rxReadExact (w.extractLsb 47 16) (w.extractLsb 15 0))
    else none
  else if op = 0x6#4 then
    if w.extractLsb 59 16 = 0#44 then some (.decFloat32 (w.extractLsb 15 0)) else none
  else if op = 0x7#4 then
    if w.extractLsb 59 0 = 0#60 then some .decReading else none
  else none

/-- The word of a command, its reserved bits 0 (R61 to R66), in the form of R70's table. -/
def encode : Instr → Word
  | .crcInit => 0x1000000000000000#64
  | .crcByte b => 0x2000000000000000#64 ||| b.zeroExtend 64
  | .crcCompute src len =>
    0x3000000000000000#64 ||| (bitOfBufSrc src).zeroExtend 64 <<< 32 ||| len.zeroExtend 64
  | .encReadReq dev start count =>
    0x4000000000000000#64 ||| dev.zeroExtend 64 <<< 40 ||| start.zeroExtend 64 <<< 16 |||
      count.zeroExtend 64
  | .rxReadExact deadline len =>
    0x5000000000000000#64 ||| deadline.zeroExtend 64 <<< 16 ||| len.zeroExtend 64
  | .decFloat32 off => 0x6000000000000000#64 ||| off.zeroExtend 64
  | .decReading => 0x7000000000000000#64

/-- The command word whose low `nbits` bits are those of `w`, every bit above them 0. A command is one
word, so spec/opcode_table.json's numbering of its bits is the word's own (R59). -/
def tableWord (nbits w : Nat) : Word := BitVec.ofNat 64 (w % 2 ^ nbits)

/-- The command the decoder reads from a table row's word. -/
def decodeTableWord (nbits w : Nat) : Option Instr := decode (tableWord nbits w)

end Sys2Proof
end

