-- ==== Sys2Proof/Config.lean ====
section
/-! DEFINITION. What an implementation fixes (spec/00_scope.md R8 to R13), and the one value the spec
leaves free (R110, spec/93_implementation_defined.md U12). -/

namespace Sys2Proof

/-- The parameters of one block. They are configuration, not state (R20): State carries them so that
every statement ranges over every value, and no step writes them (log entries 1 and 2). -/
structure Config where
  /-- `RX_BUF_BYTES` (R9): the size of the receive buffer in bytes, an open parameter. -/
  rxBufBytes : Nat
  /-- `PER_CALL_TIMEOUT_MS` (R8): the per-call timeout the reader passes to the transport. -/
  perCallTimeoutMs : Nat
deriving DecidableEq, Repr

namespace Config

/-- The configurations this hardware admits: `29 <= RX_BUF_BYTES <= 65535` (R9) and
`PER_CALL_TIMEOUT_MS = 1000` (R8). -/
abbrev wf (c : Config) : Prop :=
  29 ≤ c.rxBufBytes ∧ c.rxBufBytes ≤ 65535 ∧ c.perCallTimeoutMs = 1000

/-- The configuration State.reset carries. DESIGN CHOICE (log entry 1): 256 is the size the spec's test
vectors use "unless a vector says otherwise"; the spec fixes none. No statement rests on it. -/
def standard : Config := { rxBufBytes := 256, perCallTimeoutMs := 1000 }

end Config

/-- `FUNCTION_CODE` (R10). -/
def functionCode : Byte := 0x04#8

/-- `READING_REGS` (R11). -/
def readingRegs : Nat := 12

/-- `READING_RESP_LEN` (R11). -/
def readingRespLen : Nat := 29

/-- `READING_OFFSETS` (R11): frame byte offsets (spec/90_conflicts.md C3). -/
def readingOffsets : List Nat := [3, 7, 11, 15, 19, 23]

/-- `PLAUSIBLE_LO` and `PLAUSIBLE_HI` as magnitudes of binary32 patterns, both inclusive (R12, R106). -/
def plausibleLo : U32 := 0x322BCC78#32
def plausibleHi : U32 := 0x4CBEBC1F#32

/-- The CRC unit's polynomial and initial value (R77). -/
def crcPoly : U16 := 0xA001#16
def crcInitial : U16 := 0xFFFF#16

/-- The host's open parameters (R13, D31). They are not state or parameters of the block; the model of
the host's poll attempt (Machine/Assembler.lean) takes them as arguments. -/
structure PollerParams where
  /-- `HOST_DEADLINE_MS`. -/
  hostDeadlineMs : Nat
  /-- `READING_START_REG`. -/
  readingStartReg : Nat
  /-- `DEVICE_IDS`, polled in ascending order. -/
  deviceIds : List Nat
deriving DecidableEq, Repr

/-- Constraints of spec/92_eei_decisions.md, "Parameters left open": u32, u16, each id in 1..255, and
the ids in ascending order (R13). -/
abbrev PollerParams.wf (p : PollerParams) : Prop :=
  p.hostDeadlineMs < 2 ^ 32 ∧ p.readingStartReg < 2 ^ 16 ∧
    (∀ d ∈ p.deviceIds, 1 ≤ d ∧ d ≤ 255) ∧ p.deviceIds.Pairwise (· < ·)

/-- FREE VALUE (R110, U12; log entry 9): the sign and the fraction bits of the binary64 NaN that a host's
widening of a binary32 NaN gives. -/
opaque nanWidenSign : U32 → Bool
opaque nanWidenFraction : U32 → BitVec 52

end Sys2Proof
end

