-- ==== Sys2Proof/Machine/State.lean ====
section
/-! DEFINITION. The block's state (spec/10_state.md R20 to R39), the events its three agents produce
(spec/00_scope.md R7), the reasons a step can stop, and the state after reset (R39). -/

namespace Sys2Proof.Machine

/-- A byte buffer: a list of (index, byte) cells in canonical form (indices strictly rising). An index
that is not listed holds NO VALUE (R25, R39, R51); log entry 7. -/
abbrev Memory := List Host.Cell

/-- `RX_STATE` (R29). The code 7 has no name: it "is never written". -/
inductive RxState where
  | idle
  | busy
  | doneOk
  | doneShort
  | doneIoErr
  | doneTransportErr
  | doneFault
deriving DecidableEq, Repr

/-- `SHORT_REASON` (R30). -/
inductive ShortReason where
  | none
  | noData
  | endOfStream
  | deadline
deriving DecidableEq, Repr

/-- The order codes of `DEC_ORDER` and `READING_ORDER` (R32). -/
inductive DecOrder where
  | none
  | natural
  | swapped
  | fallback
deriving DecidableEq, Repr

/-- The error codes 0 to 9 (R115). Codes 10 to 15 are never produced and have no name. -/
inductive ErrCode where
  | none
  | illegalCommand
  | busy
  | encReject
  | rxReject
  | badRange
  | noFrame
  | chunkOverflow
  | readUnwritten
  | badIndex
deriving DecidableEq, Repr

/-- The six fields of one Reading, in slot order 0 to 5 (R33, R76; spec/90_conflicts.md C2). -/
structure Reading where
  massFlow : U32
  density : U32
  temperature : U32
  volumeFlow : U32
  massTotal : U32
  volumeTotal : U32
deriving DecidableEq, Repr

/-- The transport's answer to a request (R92). `e` is the time the call took, in milliseconds. Bytes and
times are draws: nothing is assumed of them. -/
inductive Answer where
  | data (bs : List Byte) (e : U32)
  | endOfStream (e : U32)
  | ioError (e : U32)
  | notReady (e : U32)
deriving DecidableEq, Repr

/-- One step of one agent (R7, R53). -/
inductive Event where
  /-- The host issues a command word; the block performs it (R59). -/
  | command (w : Word)
  /-- The transport answers the pending request (R92). -/
  | answer (a : Answer)
  /-- The transport answers a request that a reset abandoned (R133). -/
  | answerAbandoned (a : Answer)
  /-- The host reads an index of the read port (R36, R51). -/
  | readPort (idx : Index)
  /-- The host resets the block (R132). -/
  | reset
deriving DecidableEq, Repr

/-- What a read-port read returns (R51). -/
inductive ReadResult where
  | ok (v : U32)
  | err (e : ErrCode)
deriving DecidableEq, Repr

/-- The reasons a step can stop. None is an error of the block: its errors and outcomes are data in
STATUS (R120), reached by NEXT states. -/
inductive Fault where
  /-- Raised by the step when no event waits and no read is in progress: "The block is quiescent", a run
  ends here (R131). Safe: the model stops where the spec enables no step. Log entry 4. -/
  | quiescent
  /-- Raised by the step when no event waits while a read is BUSY: a transport that never answers leaves
  the block stuck (R126, U8). Safe: the model stops where the spec enables no step. Log entry 4. -/
  | transportSilent
  /-- Raised by CRC_COMPUTE, DEC_FLOAT32 and DEC_READING when `MemRead` is not defined although the
  command's own check passed (R15, R51). No state that meets the invariant of Safety.lean raises it, so
  no run from reset does. Safe. Log entry 7. -/
  | bufferHole
deriving DecidableEq, Repr

/-- The reasons an instruction can be refused. -/
inductive Refusal where
  /-- Raised by exec for an instruction that has no meaning in the model (none is left). Safe. -/
  | notModelled (mnemonic : String)
deriving DecidableEq, Repr

/-- The state: the record of R20, field by field, then the model's own three fields. -/
structure State where
  /-- `CRC`, the CRC unit's running value (R22). -/
  crc : U16
  /-- `TX[0..7]`, the last request frame built (R23). -/
  tx : Memory
  /-- `TX_VALID` (R23). -/
  txValid : Bool
  /-- `RESP_LEN` (R24); `none` is the spec's "no value". -/
  respLen : Option U16
  /-- `RX[0..RX_BUF_BYTES-1]`, the receive buffer (R25). -/
  rx : Memory
  /-- `RX_COUNT` (R25). -/
  rxCount : U16
  /-- `RX_EXPECTED` (R26). -/
  rxExpected : U16
  /-- `RX_ELAPSED`, the timeout accumulator in milliseconds (R27). -/
  rxElapsed : U32
  /-- `RX_DEADLINE` in milliseconds, 0 for none (R28). -/
  rxDeadline : U32
  /-- `RX_STATE` (R29). -/
  rxState : RxState
  /-- `SHORT_REASON` (R30). -/
  shortReason : ShortReason
  /-- `DEC_VALUE`, a binary32 pattern (R32); `none` is the spec's "no value". -/
  decValue : Option U32
  /-- `DEC_VALID` (R32). -/
  decValid : Bool
  /-- `DEC_ORDER` (R32). -/
  decOrder : DecOrder
  /-- `READING[0..5]` (R33); `none` is the spec's "no value". -/
  reading : Option Reading
  /-- `READING_ORDER`, 12 bits, slot `k` in bits `2k+1:2k` (R33); `none` is the spec's "no value". -/
  readingOrder : Option (BitVec 12)
  /-- `READING_VALID` (R33). -/
  readingValid : Bool
  /-- `ERR` (R34). -/
  err : ErrCode
  /-- `ERR_STICKY` (R34). -/
  errSticky : Bool
  /-- The parameters of this block (R8, R9): the MODEL's own field, written by no step (log entry 1). -/
  cfg : Config
  /-- The agents' steps still to come, in the total order of R53: the MODEL's own field, the free input
  of a run (log entry 3). -/
  inbox : List Event
  /-- What the host's last read-port read returned: the MODEL's own field, part of no block state
  (R48; log entry 8). -/
  readResult : Option ReadResult
deriving DecidableEq, Repr

/-- The state after reset of a block with parameters `c` (R39), no event waiting, nothing read. -/
def State.resetOf (c : Config) : State where
  crc := crcInitial
  tx := []
  txValid := false
  respLen := none
  rx := []
  rxCount := 0#16
  rxExpected := 0#16
  rxElapsed := 0#32
  rxDeadline := 0#32
  rxState := .idle
  shortReason := .none
  decValue := none
  decValid := false
  decOrder := .none
  reading := none
  readingOrder := none
  readingValid := false
  err := .none
  errSticky := false
  cfg := c
  inbox := []
  readResult := none

/-- The machine right after reset (R39), for the configuration of log entry 1. -/
def State.reset : State := State.resetOf Config.standard

end Sys2Proof.Machine
end

