-- ==== Sys2Proof/Machine/Ops.lean ====
section
/-! DEFINITION. The shared operations: the byte buffers (spec/20_memory.md), the accumulator's addition
(R27), and what a done command, a rejection, a fault and a reset do to the state (R116, R117, R132).
The block has no traps (R120): `reject` is the one operation that takes an error. -/

namespace Sys2Proof.Machine

/-! ## Buffers -/

/-- The canonical form of a buffer: its cells' indices strictly rise, so each index is listed at most
once. An unlisted index holds no value, so no cell can equal what an unlisted index reads as. -/
abbrev Memory.wf (m : Memory) : Prop := m.Pairwise fun c d => c.1 < d.1

/-- Byte `i` of a buffer; `none` when it holds no value (R25, R51). -/
def memGet : Memory → Nat → Option Byte
  | [], _ => none
  | (k, b) :: m, i => if k = i then some b else memGet m i

/-- Write byte `b` at index `i`, keeping the canonical form. -/
def memPut : Memory → Nat → Byte → Memory
  | [], i, b => [(i, b)]
  | (k, c) :: m, i, b =>
    if i < k then (i, b) :: (k, c) :: m
    else if i = k then (i, b) :: m
    else (k, c) :: memPut m i b

/-- `MemRead(buf, addr, n)` (R15): defined only when every byte has a value (R51). -/
def memRead (m : Memory) (addr : Nat) : Nat → Option (List Byte)
  | 0 => some []
  | n + 1 =>
    match memGet m addr, memRead m (addr + 1) n with
    | some b, some bs => some (b :: bs)
    | _, _ => none

/-- `MemWrite(buf, addr, n, v)` (R15), `n` the length of `v`. -/
def memWrite (m : Memory) (addr : Nat) : List Byte → Memory
  | [] => m
  | b :: bs => memWrite (memPut m addr b) (addr + 1) bs

/-! ## The accumulator -/

/-- Addition of milliseconds, saturating at `2^32 - 1` (R27, R93). -/
def satAdd (a b : U32) : U32 := BitVec.ofNat 32 (min (a.toNat + b.toNat) (2 ^ 32 - 1))

/-! ## Outcomes of a command -/

/-- `raise E` (R15, R117): the rejection writes `ERR` and `ERR_STICKY`, nothing else. -/
def reject (e : ErrCode) (s : State) : State := { s with err := e, errSticky := true }

/-- A rejected command is a step of its own: the block goes on (R17, R120). -/
def raise (e : ErrCode) (s : State) : Host.Outcome State Fault Refusal := .next (reject e s)

/-- A done command writes `ERR <- 0` and leaves `ERR_STICKY` as it was (R117). -/
def done (s : State) : State := { s with err := .none }

/-- Reset (R132): every element of R20 takes its value of R39, in one step. The configuration, the
events still to come and the host's last read result are not the block's state (log entries 1, 3, 8). -/
def resetBlock (s : State) : State :=
  { State.resetOf s.cfg with inbox := s.inbox, readResult := s.readResult }

end Sys2Proof.Machine
end

