-- ==== Sys2Proof/Machine/Operands.lean ====
section
/-! DEFINITION. How commands take their operands: byte order (spec/20_memory.md R41 to R43), the buffers
CRC_COMPUTE covers (R83), the response length (R74), the two candidates of a float field (R105). -/

namespace Sys2Proof.Machine

/-- `v[15:8]`. -/
def hiByte (v : U16) : Byte := v.extractLsb 15 8

/-- `v[7:0]`. -/
def loByte (v : U16) : Byte := v.extractLsb 7 0

/-- The buffer of a source operand (R63, R83). -/
def bufferOf (src : BufSrc) (s : State) : Memory :=
  match src with
  | .tx => s.tx
  | .rx => s.rx

/-- `avail` (R83): how many bytes of the source have a value. -/
def availBytes (src : BufSrc) (s : State) : Nat :=
  match src with
  | .tx => if s.txValid then 8 else 0
  | .rx => s.rxCount.toNat

/-- `respLen(count) = 5 + 2*count`, without wrap-around (R74). -/
def responseLength (count : U16) : Nat := 5 + 2 * count.toNat

/-- The natural-order ("AB CD") pattern `{b0, b1, b2, b3}` (R43, R105). -/
def naturalOrder (b0 b1 b2 b3 : Byte) : U32 := b0 ++ b1 ++ b2 ++ b3

/-- The swapped-order ("CD AB") pattern `{b2, b3, b0, b1}` (R43, R105). -/
def swappedOrder (b0 b1 b2 b3 : Byte) : U32 := b2 ++ b3 ++ b0 ++ b1

/-- `swap16(v) = {v[15:0], v[31:16]}` (R114). -/
def swap16 (v : U32) : U32 := (v.extractLsb 15 0 : U16) ++ (v.extractLsb 31 16 : U16)

end Sys2Proof.Machine
end

