-- ==== Sys2Proof/Machine/Float.lean ====
section
/-! DEFINITION. What a binary32 pattern means (spec/00_scope.md R16), and the widening a host applies to a
result of the decoder (spec/43_register_decoder.md R110). The block itself works on patterns and never
widens. A finite datum's value is exact: an integer multiple of `2^-149` (binary32) or `2^-1074`
(binary64). -/

namespace Sys2Proof.Machine

/-! ## binary32 -/

/-- Sign `u[31]`, biased exponent `u[30:23]`, fraction `u[22:0]` (R16). -/
def f32Sign (u : U32) : Bool := u.getLsbD 31
def f32Exponent (u : U32) : BitVec 8 := u.extractLsb 30 23
def f32Fraction (u : U32) : BitVec 23 := u.extractLsb 22 0

/-- `abs` clears bit 31 (R16). -/
def f32Abs (u : U32) : U32 := u &&& 0x7FFFFFFF#32

/-- `isFinite`, `isZero`, and the NaNs and infinities of binary32 (R16). -/
def f32IsFinite (u : U32) : Bool := f32Exponent u != 0xFF#8
def f32IsZero (u : U32) : Bool := f32Abs u == 0#32
def f32IsNaN (u : U32) : Bool := f32Exponent u == 0xFF#8 && f32Fraction u != 0#23
def f32IsInfinite (u : U32) : Bool := f32Exponent u == 0xFF#8 && f32Fraction u == 0#23

/-- The magnitude of a finite binary32 datum, as a multiple of `2^-149`. -/
def f32Scaled (u : U32) : Nat :=
  if f32Exponent u = 0#8 then (f32Fraction u).toNat
  else (2 ^ 23 + (f32Fraction u).toNat) * 2 ^ ((f32Exponent u).toNat - 1)

/-- The value of a finite binary32 datum, `f32(u)` (R16). -/
def f32Value (u : U32) : Rat :=
  (if f32Sign u then -1 else 1) * (f32Scaled u : Rat) / 2 ^ 149

/-! ## binary64 -/

def f64Sign (v : BitVec 64) : Bool := v.getLsbD 63
def f64Exponent (v : BitVec 64) : BitVec 11 := v.extractLsb 62 52
def f64Fraction (v : BitVec 64) : BitVec 52 := v.extractLsb 51 0
def f64IsFinite (v : BitVec 64) : Bool := f64Exponent v != 0x7FF#11
def f64IsNaN (v : BitVec 64) : Bool := f64Exponent v == 0x7FF#11 && f64Fraction v != 0#52
def f64IsInfinite (v : BitVec 64) : Bool := f64Exponent v == 0x7FF#11 && f64Fraction v == 0#52

/-- The magnitude of a finite binary64 datum, as a multiple of `2^-1074`. -/
def f64Scaled (v : BitVec 64) : Nat :=
  if f64Exponent v = 0#11 then (f64Fraction v).toNat
  else (2 ^ 52 + (f64Fraction v).toNat) * 2 ^ ((f64Exponent v).toNat - 1)

/-- The value of a finite binary64 datum. -/
def f64Value (v : BitVec 64) : Rat :=
  (if f64Sign v then -1 else 1) * (f64Scaled v : Rat) / 2 ^ 1074

/-- A binary64 pattern from its three fields. -/
def f64Pack (sign : Bool) (exponent : BitVec 11) (fraction : BitVec 52) : BitVec 64 :=
  BitVec.ofBool sign ++ exponent ++ fraction

/-! ## Widening -/

/-- A NaN's fraction bits after widening: free, but never 0, which would be an infinity (R110, U12; log
entry 9). -/
def nanFraction (p : BitVec 52) : BitVec 52 := if p = 0#52 then 1#52 else p

/-- `f64(f32(u))` (R16, R110): exact for every `u` that is no NaN; some binary64 NaN, not said which,
for a NaN. A subnormal binary32 datum, its leading one at bit `p` of the fraction, is a normal binary64
datum. -/
def widen (u : U32) : BitVec 64 :=
  if f32IsNaN u then f64Pack (nanWidenSign u) 0x7FF#11 (nanFraction (nanWidenFraction u))
  else if f32IsInfinite u then f64Pack (f32Sign u) 0x7FF#11 0#52
  else if f32IsZero u then f64Pack (f32Sign u) 0#11 0#52
  else if f32Exponent u = 0#8 then
    let f := (f32Fraction u).toNat
    let p := Nat.log2 f
    f64Pack (f32Sign u) (BitVec.ofNat 11 (p + 874)) (BitVec.ofNat 52 ((f - 2 ^ p) * 2 ^ (52 - p)))
  else
    f64Pack (f32Sign u) (BitVec.ofNat 11 ((f32Exponent u).toNat + 896))
      (BitVec.ofNat 52 ((f32Fraction u).toNat * 2 ^ 29))

end Sys2Proof.Machine
end

