-- ==== Sys2Proof/Machine/Flags.lean ====
section
/-! DEFINITION. The status fields and their codes: the STATUS word (spec/10_state.md R35), the codes of
R29, R30, R32 and R115, the packing of READING_ORDER (R33). The block has no other flags (R38). -/

namespace Sys2Proof.Machine

/-- The code of `RX_STATE` (R29). -/
def rxStateCode : RxState → BitVec 3
  | .idle => 0#3
  | .busy => 1#3
  | .doneOk => 2#3
  | .doneShort => 3#3
  | .doneIoErr => 4#3
  | .doneTransportErr => 5#3
  | .doneFault => 6#3

/-- The code of `SHORT_REASON` (R30). -/
def shortReasonCode : ShortReason → BitVec 2
  | .none => 0#2
  | .noData => 1#2
  | .endOfStream => 2#2
  | .deadline => 3#2

/-- The code of an order (R32). -/
def orderCode : DecOrder → BitVec 2
  | .none => 0#2
  | .natural => 1#2
  | .swapped => 2#2
  | .fallback => 3#2

/-- The error code (R115). -/
def errCode : ErrCode → BitVec 4
  | .none => 0#4
  | .illegalCommand => 1#4
  | .busy => 2#4
  | .encReject => 3#4
  | .rxReject => 4#4
  | .badRange => 5#4
  | .noFrame => 6#4
  | .chunkOverflow => 7#4
  | .readUnwritten => 8#4
  | .badIndex => 9#4

/-- `STATUS` (R35), composed when read; the reserved bits 11:10 and 31:17 are 0. -/
def statusWord (s : State) : U32 :=
  0#15 ++ BitVec.ofBool s.errSticky ++ errCode s.err ++ 0#2 ++ BitVec.ofBool s.readingValid ++
    orderCode s.decOrder ++ BitVec.ofBool s.decValid ++ BitVec.ofBool s.txValid ++
    shortReasonCode s.shortReason ++ rxStateCode s.rxState

/-- `READING_ORDER` from the orders of slots 0 to 5: slot `k` in bits `2k+1:2k` (R33). -/
def packOrders (o0 o1 o2 o3 o4 o5 : DecOrder) : BitVec 12 :=
  orderCode o5 ++ orderCode o4 ++ orderCode o3 ++ orderCode o2 ++ orderCode o1 ++ orderCode o0

end Sys2Proof.Machine
end

