-- ==== Sys2Proof/Machine/Crc.lean ====
section
/-! DEFINITION. The CRC unit (spec/40_checksum.md): the CRC function and CRC_INIT, CRC_BYTE,
CRC_COMPUTE. -/

namespace Sys2Proof.Machine

/-- One shift/XOR step (R78). -/
def bitStep (c : U16) : U16 := if c.getLsbD 0 then (c >>> 1) ^^^ crcPoly else c >>> 1

/-- One byte step: the byte enters at the low 8 bits, then 8 bit steps follow (R79). -/
def byteStep (c : U16) (b : Byte) : U16 :=
  bitStep (bitStep (bitStep (bitStep (bitStep (bitStep (bitStep (bitStep (c ^^^ b.zeroExtend 16))))))))

/-- `crc16(s)`: the byte steps of the sequence from the initial value (R80). -/
def crc16 (bs : List Byte) : U16 := bs.foldl byteStep crcInitial

/-- CRC_INIT (R81). -/
def execCrcInit (s : State) : Host.Outcome State Fault Refusal :=
  .next (done { s with crc := crcInitial })

/-- CRC_BYTE (R82). -/
def execCrcByte (b : Byte) (s : State) : Host.Outcome State Fault Refusal :=
  .next (done { s with crc := byteStep s.crc b })

/-- CRC_COMPUTE (R83): BUSY before BAD_RANGE (R118). -/
def execCrcCompute (src : BufSrc) (len : U16) (s : State) : Host.Outcome State Fault Refusal :=
  if src = .rx ∧ s.rxState = .busy then raise .busy s
  else if availBytes src s < len.toNat then raise .badRange s
  else
    match memRead (bufferOf src s) 0 len.toNat with
    | some bytes => .next (done { s with crc := crc16 bytes })
    | none => .fault .bufferHole

end Sys2Proof.Machine
end

