-- ==== Sys2Proof/Machine/Encoder.lean ====
section
/-! DEFINITION. The encoder unit (spec/41_frame_encoder.md): ENC_READ_REQ. -/

namespace Sys2Proof.Machine

/-- The six bytes the request's CRC covers (R72, R86). -/
def requestBody (dev : Byte) (start count : U16) : List Byte :=
  [dev, functionCode, hiByte start, loByte start, hiByte count, loByte count]

/-- The CRC of a request (R72, R86). -/
def requestCrc (dev : Byte) (start count : U16) : U16 := crc16 (requestBody dev start count)

/-- The 8-byte request frame in wire order: big-endian fields, then the CRC low byte first (R72, R88). -/
def requestFrame (dev : Byte) (start count : U16) : List Byte :=
  requestBody dev start count ++
    [loByte (requestCrc dev start count), hiByte (requestCrc dev start count)]

/-- ENC_READ_REQ (R86). The constraints are decided before any state is written (R87). -/
def execEncReadReq (dev : Byte) (start count : U16) (s : State) : Host.Outcome State Fault Refusal :=
  if dev = 0#8 then raise .encReject s
  else if s.cfg.rxBufBytes < responseLength count then raise .encReject s
  else
    .next (done { s with
      tx := memWrite s.tx 0 (requestFrame dev start count)
      txValid := true
      respLen := some (BitVec.ofNat 16 (responseLength count))
      crc := requestCrc dev start count })

end Sys2Proof.Machine
end

