-- ==== Sys2Proof/Machine/Reader.lean ====
section
/-! DEFINITION. The reader unit and its timeout accumulator (spec/42_frame_reader.md): RX_READ_EXACT, the
pending transport request, and the response step RX_RESPONSE. -/

namespace Sys2Proof.Machine

/-- RX_READ_EXACT (R90): BUSY before RX_REJECT (R118). -/
def execRxReadExact (deadline : U32) (len : U16) (s : State) : Host.Outcome State Fault Refusal :=
  if s.rxState = .busy then raise .busy s
  else if s.cfg.rxBufBytes < len.toNat then raise .rxReject s
  else
    .next (done { s with
      rxExpected := len
      rxDeadline := deadline
      rx := []
      rxCount := 0#16
      rxElapsed := 0#32
      shortReason := .none
      decValue := none
      decValid := false
      decOrder := .none
      reading := none
      readingOrder := none
      readingValid := false
      rxState := if len = 0#16 then .doneOk else .busy })

/-! ## The pending request -/

/-- A call `readUpTo(max, timeout)` of the transport (R91). -/
structure Request where
  max : Nat
  timeout : Nat
deriving DecidableEq, Repr

/-- The bytes still missing (R91). -/
def missingBytes (s : State) : Nat := s.rxExpected.toNat - s.rxCount.toNat

/-- The timeout of the pending call (R91). -/
def callTimeout (s : State) : Nat :=
  if s.rxDeadline = 0#32 then s.cfg.perCallTimeoutMs
  else min s.cfg.perCallTimeoutMs (s.rxDeadline.toNat - s.rxElapsed.toNat)

/-- The pending request: no register, a function of the state, and there exactly while BUSY (R31, R91). -/
def pendingRequest (s : State) : Option Request :=
  if s.rxState = .busy then some ⟨missingBytes s, callTimeout s⟩ else none

/-! ## The response step -/

/-- `a.e`: the milliseconds the call took (R92). -/
def Answer.elapsed : Answer → U32
  | .data _ e => e
  | .endOfStream e => e
  | .ioError e => e
  | .notReady e => e

/-- The transport's duties and assumptions toward a request that the block can name (R126): at most `max`
bytes, and a time of at most `timeout`. The block checks only the first (R96). -/
def honours (r : Request) : Answer → Bool
  | .data bs e => decide (bs.length ≤ r.max) && decide (e.toNat ≤ r.timeout)
  | .endOfStream e => decide (e.toNat ≤ r.timeout)
  | .ioError e => decide (e.toNat ≤ r.timeout)
  | .notReady e => decide (e.toNat ≤ r.timeout)

/-- "Accumulate first, always" (R93). -/
def accumulate (e : U32) (s : State) : State := { s with rxElapsed := satAdd s.rxElapsed e }

/-- A read that ends short (R95, R97, R99). -/
def endShort (r : ShortReason) (s : State) : State :=
  { s with rxState := .doneShort, shortReason := r }

/-- The fault of R96: no byte is written, the read ends DONE_FAULT. -/
def overflowFault (s : State) : State :=
  { s with rxState := .doneFault, err := .chunkOverflow, errSticky := true }

/-- `MemWrite(RX, RX_COUNT, |bs|, bs)` and the advance of `RX_COUNT` (R98). -/
def collect (bs : List Byte) (s : State) : State :=
  { s with
    rx := memWrite s.rx s.rxCount.toNat bs
    rxCount := BitVec.ofNat 16 (s.rxCount.toNat + bs.length) }

/-- Completion first, then the deadline, else the read stays BUSY (R98, R99, R100). -/
def settle (s : State) : State :=
  if s.rxCount = s.rxExpected then { s with rxState := .doneOk }
  else if s.rxDeadline ≠ 0#32 ∧ s.rxDeadline.toNat ≤ s.rxElapsed.toNat then endShort .deadline s
  else s

/-- RX_RESPONSE while BUSY (R93), in the order of R119: the answer's kind, then overflow, empty,
completion, deadline. -/
def respondBusy (a : Answer) (s : State) : State :=
  let t := accumulate a.elapsed s
  match a with
  | .notReady _ => { t with rxState := .doneTransportErr }
  | .ioError _ => { t with rxState := .doneIoErr }
  | .endOfStream _ => endShort .endOfStream t
  | .data bs _ =>
    if missingBytes s < bs.length then overflowFault t
    else if bs.length = 0 then endShort .noData t
    else settle (collect bs t)

/-- The transport's answer: the response step while a request is pending, no effect otherwise (R92, R133,
D32; log entry 5). -/
def respond (a : Answer) (s : State) : State :=
  if s.rxState = .busy then respondBusy a s else s

/-- An answer to a request that a reset abandoned: "discarded with no effect on any state" (R133). -/
def respondAbandoned (_ : Answer) (s : State) : State := s

end Sys2Proof.Machine
end

