-- ==== Sys2Proof/Machine/Decoder.lean ====
section
/-! DEFINITION. The decoder unit (spec/43_register_decoder.md): the plausibility test, the resolution of the
register order, DEC_FLOAT32 and DEC_READING. -/

namespace Sys2Proof.Machine

/-- `plausible(u)`: the exact band on the magnitude bits (R106). -/
def plausible (u : U32) : Bool :=
  plausibleLo.ule (f32Abs u) && (f32Abs u).ule plausibleHi

/-- `resolve(b0, b1, b2, b3)` (R107). -/
def resolve (b0 b1 b2 b3 : Byte) : U32 × DecOrder :=
  if plausible (naturalOrder b0 b1 b2 b3) then (naturalOrder b0 b1 b2 b3, .natural)
  else if plausible (swappedOrder b0 b1 b2 b3) then (swappedOrder b0 b1 b2 b3, .swapped)
  else (naturalOrder b0 b1 b2 b3, .fallback)

/-- `resolve(MemRead(m, off, 4))` (R108, R109). -/
def decodeField (m : Memory) (off : Nat) : Option (U32 × DecOrder) :=
  match memRead m off 4 with
  | some [b0, b1, b2, b3] => some (resolve b0 b1 b2 b3)
  | _ => none

/-- The six fields of a Reading and their packed orders, each field resolved on its own at RX offset
`3 + 4k` (R76, R109, R111). -/
def decodeFields (m : Memory) : Option (Reading × BitVec 12) :=
  match decodeField m 3, decodeField m 7, decodeField m 11,
        decodeField m 15, decodeField m 19, decodeField m 23 with
  | some (u0, o0), some (u1, o1), some (u2, o2), some (u3, o3), some (u4, o4), some (u5, o5) =>
    some (⟨u0, u1, u2, u3, u4, u5⟩, packOrders o0 o1 o2 o3 o4 o5)
  | _, _, _, _, _, _ => none

/-- DEC_FLOAT32 (R108): BUSY before BAD_RANGE (R118). -/
def execDecFloat32 (off : U16) (s : State) : Host.Outcome State Fault Refusal :=
  if s.rxState = .busy then raise .busy s
  else if s.rxCount.toNat < off.toNat + 4 then raise .badRange s
  else
    match decodeField s.rx off.toNat with
    | some (u, ord) => .next (done { s with decValue := some u, decOrder := ord, decValid := true })
    | none => .fault .bufferHole

/-- DEC_READING (R109): BUSY before NO_FRAME (R118); all six slots are written in the one step. -/
def execDecReading (s : State) : Host.Outcome State Fault Refusal :=
  if s.rxState = .busy then raise .busy s
  else if s.rxState ≠ .doneOk ∨ s.rxExpected.toNat ≠ readingRespLen then raise .noFrame s
  else
    match decodeFields s.rx with
    | some (r, orders) =>
      .next (done { s with reading := some r, readingOrder := some orders, readingValid := true })
    | none => .fault .bufferHole

end Sys2Proof.Machine
end

