-- ==== Sys2Proof/Machine/Dispatch.lean ====
section
/-! DEFINITION. One arm per command: each calls its meaning. -/

namespace Sys2Proof.Machine

def exec (i : Instr) (s : State) : Host.Outcome State Fault Refusal :=
  match i with
  -- CRC unit
  | .crcInit => Sys2Proof.Machine.execCrcInit s
  | .crcByte b => Sys2Proof.Machine.execCrcByte b s
  | .crcCompute src len => Sys2Proof.Machine.execCrcCompute src len s
  -- encoder unit
  | .encReadReq dev start count => Sys2Proof.Machine.execEncReadReq dev start count s
  -- reader unit
  | .rxReadExact deadline len => Sys2Proof.Machine.execRxReadExact deadline len s
  -- decoder unit
  | .decFloat32 off => Sys2Proof.Machine.execDecFloat32 off s
  | .decReading => Sys2Proof.Machine.execDecReading s

end Sys2Proof.Machine
end

