-- ==== Sys2Proof/Machine/Port.lean ====
section
/-! DEFINITION. The read port (spec/10_state.md R36, spec/20_memory.md R51). A read has no side effect on
the block (R48). -/

namespace Sys2Proof.Machine

/-- The registers of the read port (R36). -/
inductive PortReg where
  | status
  | crc
  | respLen
  | rxExpected
  | rxCount
  | rxElapsed
  | rxDeadline
  | decValue
  | reading (slot : Nat)
  | readingOrder
  | tx (i : Nat)
  | rx (i : Nat)
deriving DecidableEq, Repr

/-- The index map (R36); `none` is a reserved index. -/
def portMap (c : Config) (idx : Index) : Option PortReg :=
  let n := idx.toNat
  if n = 0x000 then some .status
  else if n = 0x001 then some .crc
  else if n = 0x002 then some .respLen
  else if n = 0x003 then some .rxExpected
  else if n = 0x004 then some .rxCount
  else if n = 0x005 then some .rxElapsed
  else if n = 0x006 then some .rxDeadline
  else if n = 0x007 then some .decValue
  else if n ≤ 0x00D then some (.reading (n - 0x008))
  else if n = 0x00E then some .readingOrder
  else if n = 0x00F then none
  else if n ≤ 0x017 then some (.tx (n - 0x010))
  else if n ≤ 0x0FF then none
  else if n < 0x100 + c.rxBufBytes then some (.rx (n - 0x100))
  else none

/-- Slot `k` of a Reading (R33). -/
def Reading.slot (r : Reading) : Nat → Option U32
  | 0 => some r.massFlow
  | 1 => some r.density
  | 2 => some r.temperature
  | 3 => some r.volumeFlow
  | 4 => some r.massTotal
  | 5 => some r.volumeTotal
  | _ => none

/-- The value of a register, zero-extended to 32 bits; `none` when it has no value (R36). -/
def portValue (s : State) : PortReg → Option U32
  | .status => some (statusWord s)
  | .crc => some (s.crc.zeroExtend 32)
  | .respLen => if s.txValid then s.respLen.map (·.zeroExtend 32) else none
  | .rxExpected => some (s.rxExpected.zeroExtend 32)
  | .rxCount => some (s.rxCount.zeroExtend 32)
  | .rxElapsed => some s.rxElapsed
  | .rxDeadline => some s.rxDeadline
  | .decValue => if s.decValid then s.decValue else none
  | .reading k => if s.readingValid then s.reading.bind (·.slot k) else none
  | .readingOrder => if s.readingValid then s.readingOrder.map (·.zeroExtend 32) else none
  | .tx i => if s.txValid then (memGet s.tx i).map (·.zeroExtend 32) else none
  | .rx i => if i < s.rxCount.toNat then (memGet s.rx i).map (·.zeroExtend 32) else none

/-- `ReadPort(idx)` (R51). -/
def readPort (s : State) (idx : Index) : ReadResult :=
  match portMap s.cfg idx with
  | none => .err .badIndex
  | some r =>
    match portValue s r with
    | none => .err .readUnwritten
    | some v => .ok v

/-- A host read: the result goes to the host, and no element of the block changes (R48, R51). -/
def recordRead (idx : Index) (s : State) : State := { s with readResult := some (readPort s idx) }

end Sys2Proof.Machine
end

