-- ==== Sys2Proof/Machine/Events.lean ====
section
/-! DEFINITION. One step of one agent (spec/00_scope.md R7, spec/20_memory.md R53): what each event does to
the state it finds. -/

namespace Sys2Proof.Machine

/-- The block takes one command word: it performs the command the word decodes to, or rejects the word
with ILLEGAL_COMMAND before anything else (R68, R118). -/
def issue (w : Word) (s : State) : Host.Outcome State Fault Refusal :=
  match decode w with
  | some i => exec i s
  | none => raise .illegalCommand s

/-- One event, on the state every earlier event left (R53). -/
def perform (e : Event) (s : State) : Host.Outcome State Fault Refusal :=
  match e with
  | .command w => issue w s
  | .answer a => .next (respond a s)
  | .answerAbandoned a => .next (respondAbandoned a s)
  | .readPort idx => .next (recordRead idx s)
  | .reset => .next (resetBlock s)

/-- "The block is quiescent when `RX_STATE != BUSY`" (R131). -/
def isQuiescent (s : State) : Bool := s.rxState != .busy

/-- Why nothing can step when no event waits: the block is quiescent (R131), or the transport is silent
while a read is BUSY (R126, U8). -/
def stuckReason (s : State) : Fault := if isQuiescent s then .quiescent else .transportSilent

/-- The next event, taken off the inbox and performed. -/
def nextEvent (s : State) : Host.Outcome State Fault Refusal :=
  match s.inbox with
  | [] => .fault (stuckReason s)
  | e :: rest => perform e { s with inbox := rest }

end Sys2Proof.Machine
end

