-- ==== Sys2Proof/Machine/Assembler.lean ====
section
/-! DEFINITION. The spec's assembler (spec/30_encoding.md R70), its pseudo-instructions and the commands of
one poll attempt of the host (R71, R127). None of it is the block's: it is how a host writes command words. -/

namespace Sys2Proof.Machine

/-- A line of R70's syntax table, its operands numbers as written. -/
inductive AsmLine where
  | crcInit
  | crcByte (b : Nat)
  | crcCompute (src : BufSrc) (len : Nat)
  | encRdreq (dev start count : Nat)
  | rxReadexact (len deadline : Nat)
  | decF32 (off : Nat)
  | decReading
deriving DecidableEq, Repr

/-- A pseudo-instruction of R71; `crc.seq` names at least one byte. -/
inductive AsmPseudo where
  | crcSeq (b0 : Nat) (bs : List Nat)
  | rxReadresp (count deadline : Nat)
  | rxReadreading (deadline : Nat)
deriving DecidableEq, Repr

/-! ## Lines to commands -/

/-- "An assembler refuses an operand that does not fit its field" (R70). -/
def fitField (bits n : Nat) : Option (BitVec bits) :=
  if n < 2 ^ bits then some (BitVec.ofNat bits n) else none

/-- The command of a line, or a refusal (R70). -/
def assemble : AsmLine → Option Instr
  | .crcInit => some .crcInit
  | .crcByte b => (fitField 8 b).map .crcByte
  | .crcCompute src len => (fitField 16 len).map (.crcCompute src)
  | .encRdreq dev start count =>
    match fitField 8 dev, fitField 16 start, fitField 16 count with
    | some d, some s, some c => some (.encReadReq d s c)
    | _, _, _ => none
  | .rxReadexact len deadline =>
    match fitField 32 deadline, fitField 16 len with
    | some d, some l => some (.rxReadExact d l)
    | _, _ => none
  | .decF32 off => (fitField 16 off).map .decFloat32
  | .decReading => some .decReading

/-- The word of a line (R70). -/
def assembleWord (l : AsmLine) : Option Word := (assemble l).map encode

/-- The expansion of a pseudo-instruction (R71). -/
def expandPseudo : AsmPseudo → List AsmLine
  | .crcSeq b0 bs => .crcInit :: .crcByte b0 :: bs.map .crcByte
  | .rxReadresp count deadline => [.rxReadexact (5 + 2 * count) deadline]
  | .rxReadreading deadline => [.rxReadexact readingRespLen deadline]

/-! ## One poll attempt of the host (R71) -/

/-- Up to the read: the request of the 12-register block for device `dev`, then (after the host has written
`TX[0..7]` to the line, which is no command) the read of its 29-byte response. -/
def pollStart (p : PollerParams) (dev : Nat) : List AsmLine :=
  .encRdreq dev p.readingStartReg readingRegs :: expandPseudo (.rxReadreading p.hostDeadlineMs)

/-- Once the host has seen `RX_STATE != BUSY`: "if `RX_STATE = DONE_OK`, `dec.reading`" (R71). -/
def pollFinish (seen : RxState) : List AsmLine := if seen = .doneOk then [.decReading] else []

/-! ## Text to lines

PRESUMED (log entry 12): blanks separate the mnemonic from the operands and may stand around each operand;
letters are lower case, but for hexadecimal digits. -/

def isBlank (c : Char) : Bool := c == ' ' || c == '\t'

/-- The text without the blanks around it. -/
def trimBlanks (cs : List Char) : List Char :=
  ((cs.dropWhile isBlank).reverse.dropWhile isBlank).reverse

/-- The value of a hexadecimal digit. -/
def digitValue (c : Char) : Option Nat :=
  if '0' ≤ c ∧ c ≤ '9' then some (c.toNat - '0'.toNat)
  else if 'a' ≤ c ∧ c ≤ 'f' then some (c.toNat - 'a'.toNat + 10)
  else if 'A' ≤ c ∧ c ≤ 'F' then some (c.toNat - 'A'.toNat + 10)
  else none

def parseDigits (base acc : Nat) : List Char → Option Nat
  | [] => some acc
  | c :: cs =>
    match digitValue c with
    | some d => if d < base then parseDigits base (acc * base + d) cs else none
    | none => none

/-- A number, "decimal or `0x` hexadecimal" (R70). -/
def parseNumber : List Char → Option Nat
  | [] => none
  | '0' :: 'x' :: d :: ds => parseDigits 16 0 (d :: ds)
  | c :: cs => parseDigits 10 0 (c :: cs)

/-- The text between commas. -/
def splitCommas : List Char → List (List Char)
  | [] => [[]]
  | c :: cs =>
    if c = ',' then [] :: splitCommas cs
    else
      match splitCommas cs with
      | w :: ws => (c :: w) :: ws
      | [] => [[c]]

/-- The operands of a line: none, or the trimmed texts between commas. -/
def operandTexts (cs : List Char) : List (List Char) :=
  if trimBlanks cs = [] then [] else (splitCommas cs).map trimBlanks

/-- All numbers, or none. -/
def parseNumbers : List (List Char) → Option (List Nat)
  | [] => some []
  | w :: ws =>
    match parseNumber w, parseNumbers ws with
    | some n, some ns => some (n :: ns)
    | _, _ => none

/-- The source operand `tx` or `rx` of `crc.compute` (R70). -/
def parseSrc (cs : List Char) : Option BufSrc :=
  if cs = ['t', 'x'] then some .tx else if cs = ['r', 'x'] then some .rx else none

/-- A mnemonic with the operands' texts (R70, R71): a command line or a pseudo-instruction. -/
def parseOperands (mnemonic : List Char) (ops : List (List Char)) : Option (AsmLine ⊕ AsmPseudo) :=
  if mnemonic = "crc.compute".toList then
    match ops with
    | [src, len] =>
      match parseSrc src, parseNumber len with
      | some s, some l => some (.inl (.crcCompute s l))
      | _, _ => none
    | _ => none
  else
    match parseNumbers ops with
    | none => none
    | some ns =>
      if mnemonic = "crc.init".toList then
        match ns with | [] => some (.inl .crcInit) | _ => none
      else if mnemonic = "crc.byte".toList then
        match ns with | [b] => some (.inl (.crcByte b)) | _ => none
      else if mnemonic = "enc.rdreq".toList then
        match ns with | [d, s, c] => some (.inl (.encRdreq d s c)) | _ => none
      else if mnemonic = "rx.readexact".toList then
        match ns with | [l, d] => some (.inl (.rxReadexact l d)) | _ => none
      else if mnemonic = "dec.f32".toList then
        match ns with | [o] => some (.inl (.decF32 o)) | _ => none
      else if mnemonic = "dec.reading".toList then
        match ns with | [] => some (.inl .decReading) | _ => none
      else if mnemonic = "crc.seq".toList then
        match ns with | b0 :: bs => some (.inr (.crcSeq b0 bs)) | [] => none
      else if mnemonic = "rx.readresp".toList then
        match ns with | [c, d] => some (.inr (.rxReadresp c d)) | _ => none
      else if mnemonic = "rx.readreading".toList then
        match ns with | [d] => some (.inr (.rxReadreading d)) | _ => none
      else none

/-- One line of text, "one command per line" (R70). -/
def parseLine (text : String) : Option (AsmLine ⊕ AsmPseudo) :=
  let cs := trimBlanks text.toList
  parseOperands (cs.takeWhile (fun c => !isBlank c)) (operandTexts (cs.dropWhile (fun c => !isBlank c)))

/-- The words of a line, or none where any operand does not fit (R70, R71). -/
def assembleAll : List AsmLine → Option (List Word)
  | [] => some []
  | l :: ls =>
    match assembleWord l, assembleAll ls with
    | some w, some ws => some (w :: ws)
    | _, _ => none

/-- The words of one line of text. -/
def assembleText (text : String) : Option (List Word) :=
  match parseLine text with
  | some (.inl l) => assembleAll [l]
  | some (.inr p) => assembleAll (expandPseudo p)
  | none => none

end Sys2Proof.Machine
end

