-- ==== Sys2Proof/Safety.lean ====
section
/-! DEFINITION. What a sound state is, in the spec's own terms: the relations between state elements that
spec/10_state.md (R20 to R34) and spec/42_frame_reader.md (R91) state. `State.Inv` holds after reset and
every step keeps it; both are obligations. -/

namespace Sys2Proof.Machine

/-- The indices a buffer lists are exactly `0 .. n-1`. -/
abbrev Memory.holdsFirst (m : Memory) (n : Nat) : Prop := m.map Prod.fst = List.range n

/-- The request frame (R23, R24, R72). -/
structure State.TxInv (s : State) : Prop where
  /-- "when `TX_VALID = 0` no byte of `TX` has a value" (R23); with a frame, all 8 have one. -/
  cells : s.tx.holdsFirst (if s.txValid then 8 else 0)
  /-- `RESP_LEN` "has a value exactly when `TX_VALID = 1`" (R24). -/
  noLength : s.txValid = false → s.respLen = none
  /-- `TX` holds a frame ENC_READ_REQ builds, and `RESP_LEN` its response length (R23, R24, R86). -/
  frame : s.txValid = true → ∃ dev start count,
    dev ≠ 0#8 ∧ responseLength count ≤ s.cfg.rxBufBytes ∧
      s.tx.map Prod.snd = requestFrame dev start count ∧
      s.respLen = some (BitVec.ofNat 16 (responseLength count))

/-- The reader unit (R20, R25, R29, R30, R91). -/
structure State.RxInv (s : State) : Prop where
  /-- "Byte `RX[i]` has a value exactly when `i < RX_COUNT`" (R25). -/
  cells : s.rx.holdsFirst s.rxCount.toNat
  /-- `0 <= RX_COUNT <= RX_EXPECTED` (R20). -/
  countLe : s.rxCount.toNat ≤ s.rxExpected.toNat
  /-- A read longer than the buffer never starts (R90). -/
  expectedLe : s.rxExpected.toNat ≤ s.cfg.rxBufBytes
  /-- IDLE: "no read since reset" (R29, R39). -/
  idle : s.rxState = .idle → s.rxExpected = 0#16 ∧ s.rxDeadline = 0#32 ∧ s.rxElapsed = 0#32
  /-- While BUSY, bytes are missing (`max >= 1`, R91). -/
  busyMissing : s.rxState = .busy → s.rxCount.toNat < s.rxExpected.toNat
  /-- While BUSY, time is left (`timeout >= 1`, R91). -/
  busyTime : s.rxState = .busy → s.rxDeadline = 0#32 ∨ s.rxElapsed.toNat < s.rxDeadline.toNat
  /-- DONE_OK: exactly `RX_EXPECTED` bytes (R29, R103). -/
  okFull : s.rxState = .doneOk → s.rxCount = s.rxExpected
  /-- Every other end: fewer bytes (R29). -/
  partialRead : s.rxState ≠ .idle → s.rxState ≠ .busy → s.rxState ≠ .doneOk →
    s.rxCount.toNat < s.rxExpected.toNat
  /-- `SHORT_REASON` is NONE "unless `RX_STATE = DONE_SHORT`", and then it is not (R30). -/
  shortReason : s.shortReason ≠ .none ↔ s.rxState = .doneShort

/-- The decoder's results (R32, R33, R47, R109). -/
structure State.DecInv (s : State) : Prop where
  /-- "when `DEC_VALID = 0`, `DEC_VALUE` holds no value and `DEC_ORDER = 0`" (R32). -/
  noValue : s.decValid = false → s.decValue = none ∧ s.decOrder = .none
  /-- A valid `DEC_VALUE` is the decoding of bytes the buffer still holds (R32). -/
  value : s.decValid = true → s.rxState ≠ .busy ∧
    ∃ off u, decodeField s.rx off = some (u, s.decOrder) ∧ s.decValue = some u
  /-- "when it is 0, neither `READING` nor `READING_ORDER` holds a value" (R33). -/
  noReading : s.readingValid = false → s.reading = none ∧ s.readingOrder = none
  /-- A valid Reading is the decoding of the one 29-byte frame the buffer still holds: "a Reading's six
  fields are all decoded from the same ResponseFrame instance" (R47, R109). -/
  readingFrame : s.readingValid = true → s.rxState = .doneOk ∧ s.rxExpected.toNat = readingRespLen ∧
    ∃ r orders, decodeFields s.rx = some (r, orders) ∧ s.reading = some r ∧ s.readingOrder = some orders

/-- The error fields (R34, R115, R116). -/
structure State.ErrInv (s : State) : Prop where
  /-- Codes 8 and 9 "are returned with the read and never written to `ERR`" (R115). -/
  code : s.err ≠ .readUnwritten ∧ s.err ≠ .badIndex
  /-- `ERR_STICKY` is set "whenever `ERR` is written with a non-zero code" (R34). -/
  sticky : s.err ≠ .none → s.errSticky = true
  /-- A read that ended on a fault recorded it (R116). -/
  faulted : s.rxState = .doneFault → s.errSticky = true

/-- The invariant of the machine. -/
structure State.Inv (s : State) : Prop where
  cfg : s.cfg.wf
  tx : s.TxInv
  rx : s.RxInv
  dec : s.DecInv
  err : s.ErrInv

end Sys2Proof.Machine
end

