-- ==== Sys2Proof/Certificates/Slice0/Obligations.lean ====
section
/-! DEFINITION. The statements about the model, for the provers. Each docstring names the rules of spec/ it
comes from. A next state is written as a record update of the state before, so every element the update
does not name is stated unchanged. -/

namespace Sys2Proof.Machine

/-! ## Words used by several statements -/

/-- A step on the command word `w` is `exec i` on the state with the word taken off the command port. -/
def Delivers (w : Word) (i : Instr) : Prop :=
  ∀ (s : State) (rest : List Event), s.inbox = .command w :: rest →
    step s = exec i { s with inbox := rest }

/-- The block rejects `w` with ILLEGAL_COMMAND, whatever the state, and changes nothing else. -/
def Illegal (w : Word) : Prop :=
  ∀ (s : State) (rest : List Event), s.inbox = .command w :: rest →
    step s = .next { s with inbox := rest, err := .illegalCommand, errSticky := true }

/-- A reserved opcode, or a 1 in a reserved bit of the opcode's format (R60 to R68). -/
def ReservedWord (w : Word) : Prop :=
  (w.extractLsb 63 60 = 0x0#4 ∨ 8 ≤ (w.extractLsb 63 60).toNat) ∨
  (w.extractLsb 63 60 = 0x1#4 ∧ w.extractLsb 59 0 ≠ 0#60) ∨
  (w.extractLsb 63 60 = 0x2#4 ∧ w.extractLsb 59 8 ≠ 0#52) ∨
  (w.extractLsb 63 60 = 0x3#4 ∧ (w.extractLsb 59 33 ≠ 0#27 ∨ w.extractLsb 31 16 ≠ 0#16)) ∨
  (w.extractLsb 63 60 = 0x4#4 ∧ (w.extractLsb 59 48 ≠ 0#12 ∨ w.extractLsb 39 32 ≠ 0#8)) ∨
  (w.extractLsb 63 60 = 0x5#4 ∧ w.extractLsb 59 48 ≠ 0#12) ∨
  (w.extractLsb 63 60 = 0x6#4 ∧ w.extractLsb 59 16 ≠ 0#44) ∨
  (w.extractLsb 63 60 = 0x7#4 ∧ w.extractLsb 59 0 ≠ 0#60)

/-- The event is a command word that decodes to a command `p` accepts. -/
def Event.runs (e : Event) (p : Instr → Bool) : Prop :=
  ∃ w i, e = .command w ∧ decode w = some i ∧ p i = true

def isCrcCommand : Instr → Bool
  | .crcInit | .crcByte _ | .crcCompute _ _ => true
  | .encReadReq _ _ _ | .rxReadExact _ _ | .decFloat32 _ | .decReading => false

def isEncReadReq : Instr → Bool
  | .encReadReq _ _ _ => true
  | .crcInit | .crcByte _ | .crcCompute _ _ | .rxReadExact _ _ | .decFloat32 _ | .decReading => false

def isRxReadExact : Instr → Bool
  | .rxReadExact _ _ => true
  | .crcInit | .crcByte _ | .crcCompute _ _ | .encReadReq _ _ _ | .decFloat32 _ | .decReading => false

def isDecFloat32 : Instr → Bool
  | .decFloat32 _ => true
  | .crcInit | .crcByte _ | .crcCompute _ _ | .encReadReq _ _ _ | .rxReadExact _ _ | .decReading => false

def isDecReading : Instr → Bool
  | .decReading => true
  | .crcInit | .crcByte _ | .crcCompute _ _ | .encReadReq _ _ _ | .rxReadExact _ _ | .decFloat32 _ => false

/-- The error codes a decoded command can raise: BUSY, and at most one argument-check code (R115, R118). -/
def possibleErrors : Instr → List ErrCode
  | .crcInit => []
  | .crcByte _ => []
  | .crcCompute _ _ => [.busy, .badRange]
  | .encReadReq _ _ _ => [.encReject]
  | .rxReadExact _ _ => [.busy, .rxReject]
  | .decFloat32 _ => [.busy, .badRange]
  | .decReading => [.busy, .noFrame]

/-- The event is a command word, legal or not. -/
def Event.isCommand (e : Event) : Prop := ∃ w, e = .command w

/-- The event is a transport answer. -/
def Event.isAnswer (e : Event) : Prop := ∃ a, e = .answer a

/-! The spec's own number tables, written out here apart from the model's code functions, so that a
statement that uses them fails of a model whose codes are permuted. -/

/-- The table of R29; 7 "is never written". -/
def rxStateNumbers : List (RxState × BitVec 3) :=
  [(.idle, 0#3), (.busy, 1#3), (.doneOk, 2#3), (.doneShort, 3#3), (.doneIoErr, 4#3),
    (.doneTransportErr, 5#3), (.doneFault, 6#3)]

/-- The numbers of R30. -/
def shortReasonNumbers : List (ShortReason × BitVec 2) :=
  [(.none, 0#2), (.noData, 1#2), (.endOfStream, 2#2), (.deadline, 3#2)]

/-- The numbers R32 gives the three candidates a decoding can return. -/
def resolvedOrderNumbers : List (DecOrder × BitVec 2) :=
  [(.natural, 1#2), (.swapped, 2#2), (.fallback, 3#2)]

/-- The table of R115; 10 to 15 are "never produced". -/
def errNumbers : List (ErrCode × BitVec 4) :=
  [(.none, 0#4), (.illegalCommand, 1#4), (.busy, 2#4), (.encReject, 3#4), (.rxReject, 4#4),
    (.badRange, 5#4), (.noFrame, 6#4), (.chunkOverflow, 7#4), (.readUnwritten, 8#4), (.badIndex, 9#4)]

end Sys2Proof.Machine

open Sys2Proof Sys2Proof.Machine

/-! ## Encoding (spec/30_encoding.md) -/

/-- Words of spec/95_test_vectors.md section 8, one per command and five illegal ones. -/
def Obligations.SpecWordsDecode : Prop :=
  decode 0x1000000000000000#64 = some .crcInit ∧
  decode 0x20000000000000A5#64 = some (.crcByte 0xA5#8) ∧
  decode 0x300000010000001D#64 = some (.crcCompute .rx 29#16) ∧
  decode 0x4000F7001234007D#64 = some (.encReadReq 247#8 0x1234#16 125#16) ∧
  decode 0x5000FFFFFFFFFFFF#64 = some (.rxReadExact 0xFFFFFFFF#32 0xFFFF#16) ∧
  decode 0x600000000000FFFF#64 = some (.decFloat32 0xFFFF#16) ∧
  decode 0x7000000000000000#64 = some .decReading ∧
  decode 0x0000000000000000#64 = none ∧ decode 0x3000000200000000#64 = none ∧
  decode 0x4000000100000000#64 = none ∧ decode 0x5001000000000000#64 = none ∧
  decode 0x8000000000000000#64 = none

/-- Decoding the word of a well-formed command gives the command back, whatever its operands (formats of
R61 to R66). -/
def Obligations.DecodeOfEncode : Prop :=
  ∀ i : Instr, i.wellFormed = true → decode (encode i) = some i

/-- A word that decodes to a command is that command's word: no bit of a legal word is dropped (R67). -/
def Obligations.EncodeOfDecode : Prop :=
  ∀ (w : Word) (i : Instr), decode w = some i → encode i = w

/-- R69, its pseudocode and its equivalent: the row of the opcode table that matches. -/
def Obligations.DecodeFollowsOpcodeMap : Prop :=
  ∀ w : Word,
    (w.extractLsb 63 60 = 0x1#4 → w.extractLsb 59 0 = 0#60 → decode w = some .crcInit) ∧
    (w.extractLsb 63 60 = 0x2#4 → w.extractLsb 59 8 = 0#52 →
      decode w = some (.crcByte (w.extractLsb 7 0))) ∧
    (w.extractLsb 63 60 = 0x3#4 → w.extractLsb 59 33 = 0#27 → w.extractLsb 31 16 = 0#16 →
      decode w = some (.crcCompute (if w.getLsbD 32 then .rx else .tx) (w.extractLsb 15 0))) ∧
    (w.extractLsb 63 60 = 0x4#4 → w.extractLsb 59 48 = 0#12 → w.extractLsb 39 32 = 0#8 →
      decode w = some (.encReadReq (w.extractLsb 47 40) (w.extractLsb 31 16) (w.extractLsb 15 0))) ∧
    (w.extractLsb 63 60 = 0x5#4 → w.extractLsb 59 48 = 0#12 →
      decode w = some (.rxReadExact (w.extractLsb 47 16) (w.extractLsb 15 0))) ∧
    (w.extractLsb 63 60 = 0x6#4 → w.extractLsb 59 16 = 0#44 →
      decode w = some (.decFloat32 (w.extractLsb 15 0))) ∧
    (w.extractLsb 63 60 = 0x7#4 → w.extractLsb 59 0 = 0#60 → decode w = some .decReading) ∧
    (ReservedWord w → decode w = none) ∧
    (opcodeTable.filter fun r => r.matchesWord w).map (·.mnemonic) =
      (decode w).toList.map Instr.mnemonic

/-- R68: exactly the words with a reserved opcode or a reserved bit set are illegal, the all-zero word among
them, and each is rejected with no other effect. -/
def Obligations.ReservedWordsAreRejected : Prop :=
  (∀ w : Word, ReservedWord w → Illegal w) ∧ Illegal 0#64 ∧
  (∀ w : Word, ¬ ReservedWord w → ∃ i, decode w = some i)

/-! ## The step (spec/20_memory.md R53) -/

/-- A step on a command word that decodes is exec of the command. -/
def Obligations.StepRunsDecodedCommand : Prop :=
  ∀ (w : Word) (i : Instr), decode w = some i → Delivers w i

/-- A step on any other event is that agent's own operation, on the state with the event taken off. -/
def Obligations.StepPerformsOtherAgents : Prop :=
  ∀ (s : State) (rest : List Event),
    (∀ a, s.inbox = .answer a :: rest → step s = .next (respond a { s with inbox := rest })) ∧
    (∀ a, s.inbox = .answerAbandoned a :: rest → step s = .next { s with inbox := rest }) ∧
    (∀ idx, s.inbox = .readPort idx :: rest →
      step s = .next { s with inbox := rest, readResult := some (readPort s idx) })

/-- With no event the machine does not step: the block is quiescent (R131), or a BUSY read waits for ever
(U8). The two named stops are the model's (log entry 4). -/
def Obligations.NoEventNoStep : Prop :=
  ∀ s : State, s.inbox = [] →
    (s.rxState = .busy → step s = .fault .transportSilent) ∧
    (s.rxState ≠ .busy → step s = .fault .quiescent)

/-! ## CRC unit (spec/40_checksum.md) -/

/-- R81. -/
def Obligations.CrcInitLoadsInitialValue : Prop :=
  Delivers 0x1000000000000000#64 .crcInit ∧
  (∀ w : Word, w.extractLsb 63 60 = 0x1#4 → w.extractLsb 59 0 ≠ 0#60 → Illegal w) ∧
  ∀ s : State, exec .crcInit s = .next { s with crc := 0xFFFF#16, err := .none }

/-- R82. -/
def Obligations.CrcByteFoldsTheByte : Prop :=
  (∀ b : Byte, Delivers (0x2000000000000000#64 ||| b.zeroExtend 64) (.crcByte b)) ∧
  (∀ w : Word, w.extractLsb 63 60 = 0x2#4 → w.extractLsb 59 8 ≠ 0#52 → Illegal w) ∧
  ∀ (s : State) (b : Byte),
    exec (.crcByte b) s = .next { s with crc := byteStep s.crc b, err := .none } ∧
    byteStep 0xFFFF#16 0x00#8 = 0x40BF#16 ∧ byteStep 0xFFFF#16 0x01#8 = 0x807E#16

/-- R83: BUSY, then BAD_RANGE, then the CRC of the first `len` bytes of the buffer. -/
def Obligations.CrcComputeCoversTheBuffer : Prop :=
  (∀ len : U16,
    Delivers (0x3000000000000000#64 ||| len.zeroExtend 64) (.crcCompute .tx len) ∧
    Delivers (0x3000000000000000#64 ||| 1#64 <<< 32 ||| len.zeroExtend 64) (.crcCompute .rx len)) ∧
  (∀ w : Word, w.extractLsb 63 60 = 0x3#4 →
    (w.extractLsb 59 33 ≠ 0#27 ∨ w.extractLsb 31 16 ≠ 0#16) → Illegal w) ∧
  (∀ (s : State) (len : U16), s.rxState = .busy →
    exec (.crcCompute .rx len) s = .next { s with err := .busy, errSticky := true }) ∧
  (∀ (s : State) (len : U16), (if s.txValid then 8 else 0) < len.toNat →
    exec (.crcCompute .tx len) s = .next { s with err := .badRange, errSticky := true }) ∧
  (∀ (s : State) (len : U16), s.rxState ≠ .busy → s.rxCount.toNat < len.toNat →
    exec (.crcCompute .rx len) s = .next { s with err := .badRange, errSticky := true }) ∧
  (∀ (s : State) (len : U16), s.Inv → len.toNat ≤ (if s.txValid then 8 else 0) →
    ∃ bytes : List Byte, bytes.length = len.toNat ∧
      (∀ k < len.toNat, memGet s.tx k = bytes[k]?) ∧
      exec (.crcCompute .tx len) s = .next { s with crc := crc16 bytes, err := .none }) ∧
  (∀ (s : State) (len : U16), s.Inv → s.rxState ≠ .busy → len.toNat ≤ s.rxCount.toNat →
    ∃ bytes : List Byte, bytes.length = len.toNat ∧
      (∀ k < len.toNat, memGet s.rx k = bytes[k]?) ∧
      exec (.crcCompute .rx len) s = .next { s with crc := crc16 bytes, err := .none })

/-- R78, R79 and R80, in the arithmetic of natural numbers. -/
def Obligations.CrcFunctionIsReflectedA001 : Prop :=
  (∀ c : U16, (bitStep c).toNat =
    if c.toNat % 2 = 1 then (c.toNat / 2) ^^^ 0xA001 else c.toNat / 2) ∧
  (∀ (c : U16) (b : Byte), byteStep c b =
    bitStep (bitStep (bitStep (bitStep (bitStep (bitStep (bitStep (bitStep
      (BitVec.ofNat 16 (c.toNat ^^^ b.toNat))))))))) ) ∧
  crc16 [] = 0xFFFF#16 ∧
  (∀ (bs : List Byte) (b : Byte), crc16 (bs ++ [b]) = byteStep (crc16 bs) b)

/-- R84: the zero residue. -/
def Obligations.CrcAppendedChecksToZero : Prop :=
  ∀ bs : List Byte,
    crc16 (bs ++ [(crc16 bs).extractLsb 7 0, (crc16 bs).extractLsb 15 8]) = 0x0000#16

/-- The streaming form: CRC_INIT, then CRC_BYTE for each byte, leaves the CRC of the sequence (R82, corner
cases; the expansion of `crc.seq`, R71). -/
def Obligations.StreamedBytesGiveTheirCrc : Prop :=
  ∀ (s : State) (bs : List Byte) (rest : List Event),
    s.inbox = .command (encode .crcInit) :: bs.map (fun b => .command (encode (.crcByte b))) ++ rest →
    Host.Core.run Sys2Proof.core (bs.length + 1) s =
      .next { s with inbox := rest, crc := crc16 bs, err := .none }

/-! ## Encoder unit (spec/41_frame_encoder.md) -/

/-- R86: the rejections, and the frame with its side outputs. -/
def Obligations.EncReadReqBuildsTheFrame : Prop :=
  (∀ (dev : Byte) (start count : U16),
    Delivers (0x4000000000000000#64 ||| dev.zeroExtend 64 <<< 40 ||| start.zeroExtend 64 <<< 16 |||
      count.zeroExtend 64) (.encReadReq dev start count)) ∧
  (∀ w : Word, w.extractLsb 63 60 = 0x4#4 →
    (w.extractLsb 59 48 ≠ 0#12 ∨ w.extractLsb 39 32 ≠ 0#8) → Illegal w) ∧
  (∀ (s : State) (dev : Byte) (start count : U16),
    (dev = 0#8 ∨ s.cfg.rxBufBytes < 5 + 2 * count.toNat) →
    exec (.encReadReq dev start count) s = .next { s with err := .encReject, errSticky := true }) ∧
  (∀ (s : State) (dev : Byte) (start count : U16), s.cfg.wf →
    dev ≠ 0#8 → 5 + 2 * count.toNat ≤ s.cfg.rxBufBytes →
    ∃ (tx : Memory) (len c : U16),
      len.toNat = 5 + 2 * count.toNat ∧
      c = crc16 [dev, 0x04#8, start.extractLsb 15 8, start.extractLsb 7 0,
        count.extractLsb 15 8, count.extractLsb 7 0] ∧
      exec (.encReadReq dev start count) s =
        .next { s with tx := tx, txValid := true, respLen := some len, crc := c, err := .none } ∧
      ∀ i, memGet tx i =
        if i < 8 then
          [dev, 0x04#8, start.extractLsb 15 8, start.extractLsb 7 0, count.extractLsb 15 8,
            count.extractLsb 7 0, c.extractLsb 7 0, c.extractLsb 15 8][i]?
        else memGet s.tx i)

/-- R72 and R88, as the host reads the frame: big-endian fields, CRC low byte first, at read-port indices
0x010 to 0x017. -/
def Obligations.FrameOnTheReadPort : Prop :=
  ∀ (s t : State) (dev : Byte) (start count : U16), s.cfg.wf → dev ≠ 0#8 →
    5 + 2 * count.toNat ≤ s.cfg.rxBufBytes → exec (.encReadReq dev start count) s = .next t →
    readPort t 0x010#17 = .ok (dev.zeroExtend 32) ∧
    readPort t 0x011#17 = .ok 0x04#32 ∧
    readPort t 0x012#17 = .ok (BitVec.ofNat 32 (start.toNat / 256)) ∧
    readPort t 0x013#17 = .ok (BitVec.ofNat 32 (start.toNat % 256)) ∧
    readPort t 0x014#17 = .ok (BitVec.ofNat 32 (count.toNat / 256)) ∧
    readPort t 0x015#17 = .ok (BitVec.ofNat 32 (count.toNat % 256)) ∧
    readPort t 0x016#17 = .ok (BitVec.ofNat 32 (t.crc.toNat % 256)) ∧
    readPort t 0x017#17 = .ok (BitVec.ofNat 32 (t.crc.toNat / 256)) ∧
    t.crc = crc16 [dev, 0x04#8, start.extractLsb 15 8, start.extractLsb 7 0,
      count.extractLsb 15 8, count.extractLsb 7 0] ∧
    readPort t 0x002#17 = .ok (BitVec.ofNat 32 (5 + 2 * count.toNat))

/-- R89: the frame is a function of the operands alone. -/
def Obligations.FrameDependsOnOperandsOnly : Prop :=
  ∀ (s s' : State) (dev : Byte) (start count : U16), dev ≠ 0#8 →
    5 + 2 * count.toNat ≤ s.cfg.rxBufBytes → 5 + 2 * count.toNat ≤ s'.cfg.rxBufBytes →
    ∃ t t', exec (.encReadReq dev start count) s = .next t ∧
      exec (.encReadReq dev start count) s' = .next t' ∧
      (∀ i < 8, memGet t.tx i = memGet t'.tx i ∧ (memGet t.tx i).isSome) ∧
      t.respLen = t'.respLen ∧ t.crc = t'.crc ∧
      t = { s with tx := t.tx, txValid := true, respLen := t.respLen, crc := t.crc, err := .none }

/-- A frame the block holds checks: CRC_COMPUTE over its six body bytes gives the CRC its last two carry,
and over all eight gives 0x0000 (R83 corner cases, R84). -/
def Obligations.HeldFrameChecks : Prop :=
  ∀ s : State, s.Inv → s.txValid = true →
    ∃ (c : U16), memGet s.tx 6 = some (c.extractLsb 7 0) ∧ memGet s.tx 7 = some (c.extractLsb 15 8) ∧
      exec (.crcCompute .tx 6#16) s = .next { s with crc := c, err := .none } ∧
      exec (.crcCompute .tx 8#16) s = .next { s with crc := 0x0000#16, err := .none }

/-! ## Reader unit (spec/42_frame_reader.md) -/

/-- R90; that the values of DEC_VALUE, READING and READING_ORDER go with their valid bits is R32 and R33 as
the model reads them (log entry 6). -/
def Obligations.RxReadExactStartsTheRead : Prop :=
  (∀ (deadline : U32) (len : U16),
    Delivers (0x5000000000000000#64 ||| deadline.zeroExtend 64 <<< 16 ||| len.zeroExtend 64)
      (.rxReadExact deadline len)) ∧
  (∀ w : Word, w.extractLsb 63 60 = 0x5#4 → w.extractLsb 59 48 ≠ 0#12 → Illegal w) ∧
  (∀ (s : State) (deadline : U32) (len : U16), s.rxState = .busy →
    exec (.rxReadExact deadline len) s = .next { s with err := .busy, errSticky := true }) ∧
  (∀ (s : State) (deadline : U32) (len : U16), s.rxState ≠ .busy → s.cfg.rxBufBytes < len.toNat →
    exec (.rxReadExact deadline len) s = .next { s with err := .rxReject, errSticky := true }) ∧
  (∀ (s : State) (deadline : U32) (len : U16), s.rxState ≠ .busy → len.toNat ≤ s.cfg.rxBufBytes →
    ∃ t, exec (.rxReadExact deadline len) s = .next t ∧
      t = { s with
        rxExpected := len, rxDeadline := deadline, rxCount := 0#16, rxElapsed := 0#32, rx := t.rx
        shortReason := .none, decValid := false, decOrder := .none, decValue := none
        readingValid := false, reading := none, readingOrder := none, err := .none
        rxState := if len.toNat = 0 then .doneOk else .busy } ∧
      (∀ i, memGet t.rx i = none) ∧ (len.toNat = 0 → pendingRequest t = none) ∧
      (len.toNat ≠ 0 → pendingRequest t = some ⟨len.toNat,
        if deadline.toNat = 0 then s.cfg.perCallTimeoutMs
        else min s.cfg.perCallTimeoutMs deadline.toNat⟩))

/-- R91 and R31: the pending request exists exactly while BUSY, and never asks for 0 bytes or 0 ms. The 1000
is PER_CALL_TIMEOUT_MS (R8), through Config.wf (log entry 2). -/
def Obligations.PendingRequestWhileBusy : Prop :=
  ∀ s : State, s.Inv →
    (s.rxState ≠ .busy → pendingRequest s = none) ∧
    (s.rxState = .busy → ∃ r, pendingRequest s = some r ∧
      r.max = s.rxExpected.toNat - s.rxCount.toNat ∧
      (s.rxDeadline = 0#32 → r.timeout = 1000) ∧
      (s.rxDeadline ≠ 0#32 → r.timeout = min 1000 (s.rxDeadline.toNat - s.rxElapsed.toNat)) ∧
      1 ≤ r.max ∧ 1 ≤ r.timeout)

/-- R94: a transport failure ends the read at once, the collected bytes kept, `ERR` not written. -/
def Obligations.TransportFailureEndsTheRead : Prop :=
  ∀ (s : State) (rest : List Event) (e : U32), s.rxState = .busy →
    (s.inbox = .answer (.notReady e) :: rest →
      step s = .next { s with inbox := rest, rxElapsed := satAdd s.rxElapsed e
                              rxState := .doneTransportErr }) ∧
    (s.inbox = .answer (.ioError e) :: rest →
      step s = .next { s with inbox := rest, rxElapsed := satAdd s.rxElapsed e
                              rxState := .doneIoErr })

/-- R95 and R97: end of stream and an empty answer end the read short, with their reason. -/
def Obligations.QuietTransportEndsTheReadShort : Prop :=
  ∀ (s : State) (rest : List Event) (e : U32), s.rxState = .busy →
    (s.inbox = .answer (.endOfStream e) :: rest →
      step s = .next { s with inbox := rest, rxElapsed := satAdd s.rxElapsed e
                              rxState := .doneShort, shortReason := .endOfStream }) ∧
    (s.inbox = .answer (.data [] e) :: rest →
      step s = .next { s with inbox := rest, rxElapsed := satAdd s.rxElapsed e
                              rxState := .doneShort, shortReason := .noData })

/-- R96: an answer longer than the request is a fault; none of its bytes is written. -/
def Obligations.ChunkOverflowFaults : Prop :=
  ∀ (s : State) (rest : List Event) (bs : List Byte) (e : U32), s.rxState = .busy →
    s.rxExpected.toNat - s.rxCount.toNat < bs.length →
    s.inbox = .answer (.data bs e) :: rest →
    step s = .next { s with inbox := rest, rxElapsed := satAdd s.rxElapsed e
                            rxState := .doneFault, err := .chunkOverflow, errSticky := true }

/-- R98, R99 and R100: a non-empty answer within the request appends its bytes; completion is tested
first, then the deadline; otherwise the read goes on. -/
def Obligations.DataAnswerAppendsItsBytes : Prop :=
  ∀ (s : State) (rest : List Event) (bs : List Byte) (e : U32), s.rxState = .busy →
    1 ≤ bs.length → bs.length ≤ s.rxExpected.toNat - s.rxCount.toNat →
    s.inbox = .answer (.data bs e) :: rest →
    ∃ t, step s = .next t ∧
      t = { s with inbox := rest, rx := t.rx, rxCount := t.rxCount, rxElapsed := t.rxElapsed
                   rxState := t.rxState, shortReason := t.shortReason } ∧
      (∀ i, memGet t.rx i =
        if s.rxCount.toNat ≤ i ∧ i < s.rxCount.toNat + bs.length then bs[i - s.rxCount.toNat]?
        else memGet s.rx i) ∧
      t.rxCount.toNat = s.rxCount.toNat + bs.length ∧
      t.rxElapsed = satAdd s.rxElapsed e ∧
      (t.rxCount = s.rxExpected → t.rxState = .doneOk ∧ t.shortReason = s.shortReason) ∧
      (t.rxCount ≠ s.rxExpected → s.rxDeadline ≠ 0#32 → s.rxDeadline.toNat ≤ t.rxElapsed.toNat →
        t.rxState = .doneShort ∧ t.shortReason = .deadline) ∧
      (t.rxCount ≠ s.rxExpected → (s.rxDeadline = 0#32 ∨ t.rxElapsed.toNat < s.rxDeadline.toNat) →
        t.rxState = .busy ∧ t.shortReason = s.shortReason ∧
        pendingRequest t = some
          ⟨s.rxExpected.toNat - t.rxCount.toNat,
            if s.rxDeadline = 0#32 then s.cfg.perCallTimeoutMs
            else min s.cfg.perCallTimeoutMs (s.rxDeadline.toNat - t.rxElapsed.toNat)⟩)

/-- R27: the accumulator saturates and never wraps. -/
def Obligations.AccumulatorSaturates : Prop :=
  ∀ (s : State) (rest : List Event) (a : Answer), s.rxState = .busy → s.inbox = .answer a :: rest →
    ∃ t, step s = .next t ∧
      t.rxElapsed.toNat = min (s.rxElapsed.toNat + a.elapsed.toNat) (2 ^ 32 - 1) ∧
      s.rxElapsed.toNat ≤ t.rxElapsed.toNat

/-- R102: every read ends after at most `RX_EXPECTED` response steps, whatever the transport answers. Answers
left over after the end are taken off the inbox with no effect, which is the model's choice (log entry 5). -/
def Obligations.EveryReadEnds : Prop :=
  ∀ (s : State) (answers : List Answer) (rest : List Event), s.Inv → s.rxState = .busy →
    s.inbox = answers.map Event.answer ++ rest →
    answers.length = s.rxExpected.toNat - s.rxCount.toNat →
    ∃ t : State, Host.Core.run Sys2Proof.core answers.length s = .next t ∧
      t.rxState ≠ .busy ∧ t.inbox = rest

/-- R100 and R27: however the missing bytes are cut into answers, a read without a deadline collects them
in order, ends DONE_OK, and accumulates the sum of the times. -/
def Obligations.ChunkingDoesNotMatter : Prop :=
  ∀ (s : State) (calls : List (List Byte × U32)) (rest : List Event),
    s.Inv → s.rxState = .busy → s.rxDeadline = 0#32 →
    (∀ c ∈ calls, c.1 ≠ []) →
    (calls.map (·.1)).flatten.length = s.rxExpected.toNat - s.rxCount.toNat →
    s.inbox = calls.map (fun c => .answer (.data c.1 c.2)) ++ rest →
    ∃ t : State, Host.Core.run Sys2Proof.core calls.length s = .next t ∧
      t = { s with inbox := rest, rx := t.rx, rxCount := s.rxExpected, rxElapsed := t.rxElapsed
                   rxState := .doneOk } ∧
      t.rxElapsed.toNat =
        min (s.rxElapsed.toNat + (calls.map (·.2.toNat)).sum) (2 ^ 32 - 1) ∧
      (∀ i, memGet t.rx i =
        if s.rxCount.toNat ≤ i ∧ i < s.rxExpected.toNat then
          (calls.map (·.1)).flatten[i - s.rxCount.toNat]?
        else memGet s.rx i)

/-- R101, second sentence: with a deadline, a transport that keeps every call within the timeout it was
given never takes the read past it. -/
def Obligations.HonestTransportMeetsDeadline : Prop :=
  ∀ (s : State) (rest : List Event) (a : Answer) (r : Request), s.Inv → s.rxDeadline ≠ 0#32 →
    pendingRequest s = some r → honours r a = true → s.inbox = .answer a :: rest →
    ∃ t, step s = .next t ∧ t.rxDeadline = s.rxDeadline ∧ t.rxElapsed.toNat ≤ t.rxDeadline.toNat

/-- R133 and D32: an answer has no effect when no request is pending, and an answer to a request a reset
abandoned never has one. -/
def Obligations.LateAnswersHaveNoEffect : Prop :=
  ∀ (s : State) (rest : List Event) (a : Answer),
    (s.inbox = .answerAbandoned a :: rest → step s = .next { s with inbox := rest }) ∧
    (s.rxState ≠ .busy → s.inbox = .answer a :: rest → step s = .next { s with inbox := rest }) ∧
    (s.inbox = .reset :: .answer a :: rest →
      Host.Core.run Sys2Proof.core 2 s = .next { State.resetOf s.cfg with inbox := rest, readResult := s.readResult })

/-- No command touches a read in progress: neither its bytes, nor its accumulator, nor its pending request
(R117, R140, D20). -/
def Obligations.CommandsLeaveABusyReadAlone : Prop :=
  ∀ (i : Instr) (s : State), s.Inv → s.rxState = .busy →
    ∃ t, exec i s = .next t ∧ t.rx = s.rx ∧ t.rxCount = s.rxCount ∧ t.rxExpected = s.rxExpected ∧
      t.rxElapsed = s.rxElapsed ∧ t.rxDeadline = s.rxDeadline ∧ t.rxState = .busy ∧
      t.shortReason = s.shortReason ∧ pendingRequest t = pendingRequest s

/-! ## Decoder unit (spec/43_register_decoder.md) -/

/-- R108. -/
def Obligations.DecFloat32DecodesTheField : Prop :=
  (∀ off : U16, Delivers (0x6000000000000000#64 ||| off.zeroExtend 64) (.decFloat32 off)) ∧
  (∀ w : Word, w.extractLsb 63 60 = 0x6#4 → w.extractLsb 59 16 ≠ 0#44 → Illegal w) ∧
  (∀ (s : State) (off : U16), s.rxState = .busy →
    exec (.decFloat32 off) s = .next { s with err := .busy, errSticky := true }) ∧
  (∀ (s : State) (off : U16), s.rxState ≠ .busy → s.rxCount.toNat < off.toNat + 4 →
    exec (.decFloat32 off) s = .next { s with err := .badRange, errSticky := true }) ∧
  (∀ (s : State) (off : U16), s.Inv → s.rxState ≠ .busy → off.toNat + 4 ≤ s.rxCount.toNat →
    ∃ b0 b1 b2 b3,
      memGet s.rx off.toNat = some b0 ∧ memGet s.rx (off.toNat + 1) = some b1 ∧
      memGet s.rx (off.toNat + 2) = some b2 ∧ memGet s.rx (off.toNat + 3) = some b3 ∧
      exec (.decFloat32 off) s = .next { s with
        decValue := some (resolve b0 b1 b2 b3).1, decOrder := (resolve b0 b1 b2 b3).2
        decValid := true, err := .none })

/-- R109: slot `k` from the bytes at RX offset `3 + 4k`, all six in one step, each order by its number. -/
def Obligations.DecReadingDecodesSixFields : Prop :=
  Delivers 0x7000000000000000#64 .decReading ∧
  (∀ w : Word, w.extractLsb 63 60 = 0x7#4 → w.extractLsb 59 0 ≠ 0#60 → Illegal w) ∧
  (∀ s : State, s.rxState = .busy →
    exec .decReading s = .next { s with err := .busy, errSticky := true }) ∧
  (∀ s : State, s.rxState ≠ .busy → (s.rxState ≠ .doneOk ∨ s.rxExpected.toNat ≠ 29) →
    exec .decReading s = .next { s with err := .noFrame, errSticky := true }) ∧
  (∀ s : State, s.Inv → s.rxState = .doneOk → s.rxExpected.toNat = 29 →
    ∃ (r : Reading) (orders : BitVec 12),
      exec .decReading s = .next { s with
        reading := some r, readingOrder := some orders, readingValid := true, err := .none } ∧
      ∀ k < 6, ∃ b0 b1 b2 b3,
        memGet s.rx (3 + 4 * k) = some b0 ∧ memGet s.rx (3 + 4 * k + 1) = some b1 ∧
        memGet s.rx (3 + 4 * k + 2) = some b2 ∧ memGet s.rx (3 + 4 * k + 3) = some b3 ∧
        r.slot k = some (resolve b0 b1 b2 b3).1 ∧
        ((resolve b0 b1 b2 b3).2, orders.extractLsb' (2 * k) 2) ∈ resolvedOrderNumbers)

/-- R105 and R107: the candidates as numbers, and which one is returned. -/
def Obligations.ResolvePrefersNaturalOrder : Prop :=
  ∀ b0 b1 b2 b3 : Byte, ∃ n s : U32,
    n.toNat = ((b0.toNat * 256 + b1.toNat) * 256 + b2.toNat) * 256 + b3.toNat ∧
    s.toNat = ((b2.toNat * 256 + b3.toNat) * 256 + b0.toNat) * 256 + b1.toNat ∧
    (plausible n = true → resolve b0 b1 b2 b3 = (n, .natural)) ∧
    (plausible n = false → plausible s = true → resolve b0 b1 b2 b3 = (s, .swapped)) ∧
    (plausible n = false → plausible s = false → resolve b0 b1 b2 b3 = (n, .fallback))

/-- R106 and R12: the integer band on the magnitude bits, and that it is the test on the real value, "finite,
non-zero, and with absolute value inside the open interval (1e-8, 1e8)". -/
def Obligations.PlausibleIsTheRealInterval : Prop :=
  ∀ u : U32,
    (plausible u = true ↔
      0x322BCC78 ≤ (u &&& 0x7FFFFFFF#32).toNat ∧ (u &&& 0x7FFFFFFF#32).toNat ≤ 0x4CBEBC1F) ∧
    (plausible u = true ↔
      f32IsFinite u = true ∧ f32Value u ≠ 0 ∧ 1 / 10 ^ 8 < |f32Value u| ∧ |f32Value u| < 10 ^ 8)

/-- R114: a plausible value whose swap is implausible is recovered from both orders. -/
def Obligations.SwappedDeviceIsRecovered : Prop :=
  ∀ v : U32, plausible v = true → plausible ((v.extractLsb 15 0 : U16) ++ (v.extractLsb 31 16 : U16)) = false →
    resolve (v.extractLsb 31 24) (v.extractLsb 23 16) (v.extractLsb 15 8) (v.extractLsb 7 0) =
      (v, .natural) ∧
    resolve (v.extractLsb 15 8) (v.extractLsb 7 0) (v.extractLsb 31 24) (v.extractLsb 23 16) =
      (v, .swapped)

/-- R112 and R113 on their own examples: a NaN result, the wrong order picked, and natural order winning
over a plausible swap. -/
def Obligations.HeuristicCanMislead : Prop :=
  resolve 0x7F#8 0xC0#8 0x00#8 0x00#8 = (0x7FC00000#32, .fallback) ∧
  f32IsNaN 0x7FC00000#32 = true ∧
  f32Value 0x4CBEBC20#32 = 100000000 ∧
  resolve 0x4C#8 0xBE#8 0xBC#8 0x20#8 = (0xBC204CBE#32, .swapped) ∧
  resolve 0x41#8 0x48#8 0x3F#8 0x80#8 = (0x41483F80#32, .natural) ∧
  plausible 0x3F804148#32 = true

/-- R16 and R110: widening is exact for every finite pattern, keeps the sign and the infinities, and takes a
NaN to some NaN (whichever free value of log entry 9 it is). -/
def Obligations.WideningIsExact : Prop :=
  ∀ u : U32,
    (f32IsFinite u = true → f64IsFinite (widen u) = true ∧ f64Value (widen u) = f32Value u) ∧
    (f32IsNaN u = false → f64Sign (widen u) = f32Sign u) ∧
    (f32IsInfinite u = true → f64IsInfinite (widen u) = true) ∧
    (f32IsNaN u = true → f64IsNaN (widen u) = true)

/-- R111: slot `k` depends on its own four bytes alone. -/
def Obligations.FieldsResolveIndependently : Prop :=
  ∀ (s s' : State) (k : Nat), s.Inv → s'.Inv → s.rxState = .doneOk → s'.rxState = .doneOk →
    s.rxExpected.toNat = 29 → s'.rxExpected.toNat = 29 → k < 6 →
    (∀ j < 4, memGet s.rx (3 + 4 * k + j) = memGet s'.rx (3 + 4 * k + j)) →
    ∃ (t t' : State) (r r' : Reading) (o o' : BitVec 12),
      exec .decReading s = .next t ∧ exec .decReading s' = .next t' ∧
      t.reading = some r ∧ t'.reading = some r' ∧ t.readingOrder = some o ∧ t'.readingOrder = some o' ∧
      r.slot k = r'.slot k ∧ o.extractLsb' (2 * k) 2 = o'.extractLsb' (2 * k) 2

/-! ## The whole machine -/

/-- The invariant holds after reset, for every admitted configuration. -/
def Obligations.ResetMeetsTheInvariant : Prop :=
  ∀ c : Config, c.wf → (State.resetOf c).Inv

/-- Every step keeps the invariant of Safety.lean (R20, R23 to R25, R29 to R34, R47, R91). -/
def Obligations.StepKeepsTheInvariant : Prop :=
  ∀ s t : State, s.Inv → step s = .next t → t.Inv

/-- R17 and R120: from a state that meets the invariant every command completes, done or rejected, and every
event is performed; the model's `bufferHole` stop (log entry 7) is never reached. -/
def Obligations.NoCommandEverStops : Prop :=
  (∀ (i : Instr) (s : State), s.Inv → ∃ t, exec i s = .next t) ∧
  (∀ s : State, s.Inv → s.inbox ≠ [] → ∃ t, step s = .next t)

/-- R117: a rejection writes `ERR` and `ERR_STICKY` alone; a done command leaves `ERR_STICKY` as it was. -/
def Obligations.RejectionChangesOnlyErr : Prop :=
  ∀ (s t : State) (w : Word) (rest : List Event), s.inbox = .command w :: rest → step s = .next t →
    (t.err ≠ .none → t = { s with inbox := rest, err := t.err, errSticky := true } ∧
      pendingRequest t = pendingRequest s) ∧
    (t.err = .none → t.errSticky = s.errSticky)

/-- `ERR_STICKY` is cleared by reset alone, and set by any step that writes a non-zero `ERR` (R34, R116). -/
def Obligations.ErrStickyOnlyResetClears : Prop :=
  ∀ s t : State, step s = .next t →
    (s.errSticky = true → s.inbox.head? ≠ some .reset → t.errSticky = true) ∧
    (s.inbox.head? = some .reset → t.errSticky = false) ∧
    (t.err ≠ s.err → t.err ≠ .none → t.errSticky = true)

/-- R38: which steps set and clear the valid flags. -/
def Obligations.ValidFlagsHaveTheirWriters : Prop :=
  ∀ (s t : State) (e : Event) (rest : List Event), s.inbox = e :: rest → step s = .next t →
    (s.txValid = false → t.txValid = true → e.runs isEncReadReq ∧ t.err = .none) ∧
    (s.txValid = true → t.txValid = false → e = .reset) ∧
    (s.decValid = false → t.decValid = true → e.runs isDecFloat32 ∧ t.err = .none) ∧
    (s.decValid = true → t.decValid = false → e = .reset ∨ e.runs isRxReadExact ∧ t.err = .none) ∧
    (s.readingValid = false → t.readingValid = true → e.runs isDecReading ∧ t.err = .none) ∧
    (s.readingValid = true → t.readingValid = false → e = .reset ∨ e.runs isRxReadExact ∧ t.err = .none)

/-- The "written by" column of R20, all nineteen elements, with reset (R39): no other step changes the element.
Where RX_READ_EXACT takes an element's value away (R25, R32, R33, R90; log entry 6) it is one of the writers.
The last two clauses are about the model's own fields: the configuration (log entry 1) and the inbox (log
entry 3). -/
def Obligations.ElementsHaveTheirWriters : Prop :=
  ∀ (s t : State) (e : Event) (rest : List Event), s.inbox = e :: rest → step s = .next t →
    (t.crc ≠ s.crc → e = .reset ∨ e.runs isCrcCommand ∨ e.runs isEncReadReq) ∧
    (t.tx ≠ s.tx ∨ t.txValid ≠ s.txValid ∨ t.respLen ≠ s.respLen →
      e = .reset ∨ e.runs isEncReadReq) ∧
    (t.rx ≠ s.rx ∨ t.rxCount ≠ s.rxCount ∨ t.rxElapsed ≠ s.rxElapsed ∨ t.rxState ≠ s.rxState ∨
      t.shortReason ≠ s.shortReason → e = .reset ∨ e.runs isRxReadExact ∨ e.isAnswer) ∧
    (t.rxExpected ≠ s.rxExpected ∨ t.rxDeadline ≠ s.rxDeadline → e = .reset ∨ e.runs isRxReadExact) ∧
    (t.decValue ≠ s.decValue ∨ t.decValid ≠ s.decValid ∨ t.decOrder ≠ s.decOrder →
      e = .reset ∨ e.runs isRxReadExact ∨ e.runs isDecFloat32) ∧
    (t.reading ≠ s.reading ∨ t.readingOrder ≠ s.readingOrder ∨ t.readingValid ≠ s.readingValid →
      e = .reset ∨ e.runs isRxReadExact ∨ e.runs isDecReading) ∧
    (t.err ≠ s.err → e = .reset ∨ e.isCommand ∨ e.isAnswer ∧ t.rxState = .doneFault) ∧
    (t.errSticky ≠ s.errSticky →
      e = .reset ∨ e.isCommand ∧ t.err ≠ .none ∨ e.isAnswer ∧ t.rxState = .doneFault) ∧
    t.cfg = s.cfg ∧ t.inbox = rest

/-- R118: ILLEGAL_COMMAND before BUSY, BUSY before the command's own check, and at most one check code per
command. -/
def Obligations.FirstCauseIsReported : Prop :=
  (∀ w : Word, decode w = none → Illegal w) ∧
  (∀ (i : Instr) (s : State), s.rxState = .busy →
    ((∃ len, i = .crcCompute .rx len) ∨ (∃ d len, i = .rxReadExact d len) ∨
      (∃ off, i = .decFloat32 off) ∨ i = .decReading) →
    exec i s = .next { s with err := .busy, errSticky := true }) ∧
  (∀ (i : Instr) (s t : State), exec i s = .next t →
    t.err = .none ∨ t.err ∈ possibleErrors i ∧ (t.err = .busy → s.rxState = .busy))

/-! ## Read port and reset -/

/-- R36 and R51: what a read of each index returns. -/
def Obligations.ReadPortFollowsTheIndexMap : Prop :=
  ∀ s : State, s.Inv →
    readPort s 0x000#17 = .ok (statusWord s) ∧
    readPort s 0x001#17 = .ok (s.crc.zeroExtend 32) ∧
    (s.txValid = false → readPort s 0x002#17 = .err .readUnwritten) ∧
    (s.txValid = true → ∃ v, s.respLen = some v ∧ readPort s 0x002#17 = .ok (v.zeroExtend 32)) ∧
    readPort s 0x003#17 = .ok (s.rxExpected.zeroExtend 32) ∧
    readPort s 0x004#17 = .ok (s.rxCount.zeroExtend 32) ∧
    readPort s 0x005#17 = .ok s.rxElapsed ∧
    readPort s 0x006#17 = .ok s.rxDeadline ∧
    (s.decValid = false → readPort s 0x007#17 = .err .readUnwritten) ∧
    (s.decValid = true → ∃ v, s.decValue = some v ∧ readPort s 0x007#17 = .ok v) ∧
    (∀ k < 6, s.readingValid = false →
      readPort s (BitVec.ofNat 17 (0x008 + k)) = .err .readUnwritten) ∧
    (∀ k < 6, s.readingValid = true → ∃ r v, s.reading = some r ∧ r.slot k = some v ∧
      readPort s (BitVec.ofNat 17 (0x008 + k)) = .ok v) ∧
    (s.readingValid = false → readPort s 0x00E#17 = .err .readUnwritten) ∧
    (s.readingValid = true → ∃ v, s.readingOrder = some v ∧
      readPort s 0x00E#17 = .ok (v.zeroExtend 32)) ∧
    readPort s 0x00F#17 = .err .badIndex ∧
    (∀ k < 8, s.txValid = false → readPort s (BitVec.ofNat 17 (0x010 + k)) = .err .readUnwritten) ∧
    (∀ k < 8, s.txValid = true → ∃ b, memGet s.tx k = some b ∧
      readPort s (BitVec.ofNat 17 (0x010 + k)) = .ok (b.zeroExtend 32)) ∧
    (∀ n, 0x018 ≤ n → n ≤ 0x0FF → readPort s (BitVec.ofNat 17 n) = .err .badIndex) ∧
    (∀ i, i < s.rxCount.toNat → ∃ b, memGet s.rx i = some b ∧
      readPort s (BitVec.ofNat 17 (0x100 + i)) = .ok (b.zeroExtend 32)) ∧
    (∀ i, s.rxCount.toNat ≤ i → i < s.cfg.rxBufBytes →
      readPort s (BitVec.ofNat 17 (0x100 + i)) = .err .readUnwritten) ∧
    (∀ n, 0x100 + s.cfg.rxBufBytes ≤ n → n < 2 ^ 17 → readPort s (BitVec.ofNat 17 n) = .err .badIndex)

/-- R48: a read changes no element of the block, and reading the same index twice with no step between
returns the same result. -/
def Obligations.ReadsHaveNoSideEffect : Prop :=
  ∀ (s : State) (idx : Index) (rest : List Event),
    s.inbox = .readPort idx :: .readPort idx :: rest →
    ∃ t u : State, step s = .next t ∧ step t = .next u ∧
      t = { s with inbox := .readPort idx :: rest, readResult := some (readPort s idx) } ∧
      u = { s with inbox := rest, readResult := t.readResult }

/-- R35: the fields of STATUS, with the numbers of the tables R35 refers to (R29, R30, R32, R115), and its
reserved bits 0. -/
def Obligations.StatusWordFields : Prop :=
  ∀ s : State, ∃ v : U32, readPort s 0x000#17 = .ok v ∧
    (s.rxState, v.extractLsb 2 0) ∈ rxStateNumbers ∧
    (s.shortReason, v.extractLsb 4 3) ∈ shortReasonNumbers ∧
    v.getLsbD 5 = s.txValid ∧ v.getLsbD 6 = s.decValid ∧
    (s.decOrder, v.extractLsb 8 7) ∈ (DecOrder.none, 0#2) :: resolvedOrderNumbers ∧
    v.getLsbD 9 = s.readingValid ∧
    v.extractLsb 11 10 = 0#2 ∧ (s.err, v.extractLsb 15 12) ∈ errNumbers ∧
    v.getLsbD 16 = s.errSticky ∧ v.extractLsb 31 17 = 0#15

/-- R39 and R132: reset sets every element, in one step, at any time; the configuration, the events to come
and the host's last read result are no elements of the block (log entries 1, 3, 8). -/
def Obligations.ResetSetsEveryElement : Prop :=
  ∀ (s : State) (rest : List Event), s.inbox = .reset :: rest →
    step s = .next
      { crc := 0xFFFF#16, tx := [], txValid := false, respLen := none, rx := [], rxCount := 0#16
        rxExpected := 0#16, rxElapsed := 0#32, rxDeadline := 0#32, rxState := .idle
        shortReason := .none, decValue := none, decValid := false, decOrder := .none
        reading := none, readingOrder := none, readingValid := false, err := .none
        errSticky := false, cfg := s.cfg, inbox := rest, readResult := s.readResult }

/-- What the host reads right after reset, at every index (R36, R39; spec/95_test_vectors.md section 7). -/
def Obligations.ReadPortAfterReset : Prop :=
  ∀ (c : Config) (idx : Index), c.wf →
    readPort (State.resetOf c) idx =
      if idx.toNat = 0x000 then .ok 0#32
      else if idx.toNat = 0x001 then .ok 0x0000FFFF#32
      else if 0x003 ≤ idx.toNat ∧ idx.toNat ≤ 0x006 then .ok 0#32
      else if idx.toNat = 0x00F ∨ (0x018 ≤ idx.toNat ∧ idx.toNat ≤ 0x0FF) ∨
          0x100 + c.rxBufBytes ≤ idx.toNat then .err .badIndex
      else .err .readUnwritten

/-! ## Assembler (spec/30_encoding.md R70, R71) -/

/-- R70: the word of each line, and the refusal of an operand that does not fit its field. -/
def Obligations.AssemblerFollowsTheSyntaxTable : Prop :=
  assembleWord .crcInit = some 0x1000000000000000#64 ∧
  assembleWord .decReading = some 0x7000000000000000#64 ∧
  (∀ b, assembleWord (.crcByte b) =
    if b ≤ 255 then some (BitVec.ofNat 64 (0x2000000000000000 ||| b)) else none) ∧
  (∀ len, assembleWord (.crcCompute .tx len) =
    if len ≤ 65535 then some (BitVec.ofNat 64 (0x3000000000000000 ||| len)) else none) ∧
  (∀ len, assembleWord (.crcCompute .rx len) =
    if len ≤ 65535 then some (BitVec.ofNat 64 (0x3000000000000000 ||| 1 <<< 32 ||| len)) else none) ∧
  (∀ dev start count, assembleWord (.encRdreq dev start count) =
    if dev ≤ 255 ∧ start ≤ 65535 ∧ count ≤ 65535 then
      some (BitVec.ofNat 64 (0x4000000000000000 ||| dev <<< 40 ||| start <<< 16 ||| count))
    else none) ∧
  (∀ len deadline, assembleWord (.rxReadexact len deadline) =
    if len ≤ 65535 ∧ deadline ≤ 2 ^ 32 - 1 then
      some (BitVec.ofNat 64 (0x5000000000000000 ||| deadline <<< 16 ||| len))
    else none) ∧
  (∀ off, assembleWord (.decF32 off) =
    if off ≤ 65535 then some (BitVec.ofNat 64 (0x6000000000000000 ||| off)) else none)

/-- `rx.readresp count, deadline` (R71) reads the length that a done ENC_READ_REQ of `count` registers leaves
in `RESP_LEN` (R74, R86). -/
def Obligations.ReadrespReadsTheRequestedLength : Prop :=
  ∀ (s t : State) (dev : Byte) (start count : U16) (deadline : U32), s.cfg.wf →
    exec (.encReadReq dev start count) s = .next t → t.err = .none →
    ∃ len : U16, t.respLen = some len ∧
      assembleAll (expandPseudo (.rxReadresp count.toNat deadline.toNat)) =
        some [encode (.rxReadExact deadline len)]
end

