-- ==== Sys2Proof/Laws/Memory.lean ====
section
/-! SUPPORT. The laws of the byte buffers: reading back what was written, everything else unchanged, and the
canonical form kept by every operation. -/

namespace Sys2Proof.Machine

@[simp] theorem memGet_nil (i : Nat) : memGet [] i = none := rfl

@[simp] theorem memRead_zero (m : Memory) (a : Nat) : memRead m a 0 = some [] := rfl

@[simp] theorem memWrite_nil (m : Memory) (a : Nat) : memWrite m a [] = m := rfl

/-! ## One byte -/

theorem memGet_memPut_same (m : Memory) (i : Nat) (b : Byte) : memGet (memPut m i b) i = some b := by
  induction m with
  | nil => simp [memPut, memGet]
  | cons c m ih =>
    obtain ⟨k, c⟩ := c
    by_cases hlt : i < k
    · simp [memPut, memGet, hlt]
    · by_cases heq : i = k
      · simp [memPut, memGet, heq]
      · simp [memPut, memGet, hlt, heq, Ne.symm heq, ih]

theorem memGet_memPut_other (m : Memory) {i j : Nat} (b : Byte) (hj : j ≠ i) :
    memGet (memPut m i b) j = memGet m j := by
  induction m with
  | nil => simp [memPut, memGet, Ne.symm hj]
  | cons c m ih =>
    obtain ⟨k, c⟩ := c
    by_cases hlt : i < k
    · simp [memPut, memGet, hlt, Ne.symm hj]
    · by_cases heq : i = k
      · subst heq
        simp [memPut, memGet, Ne.symm hj]
      · simp [memPut, memGet, hlt, heq, ih]

/-- A write changes its own index and no other. -/
theorem memGet_memPut (m : Memory) (i j : Nat) (b : Byte) :
    memGet (memPut m i b) j = if j = i then some b else memGet m j := by
  by_cases h : j = i
  · simp [h, memGet_memPut_same]
  · simp [h, memGet_memPut_other m b h]

/-! ## The canonical form -/

theorem memPut_lower (m : Memory) {i k : Nat} (b : Byte) (hk : k < i)
    (h : ∀ c ∈ m, k < c.1) : ∀ c ∈ memPut m i b, k < c.1 := by
  induction m with
  | nil => simpa [memPut] using hk
  | cons d m ih =>
    obtain ⟨j, d⟩ := d
    have hm := ih fun c hc => h c (List.mem_cons_of_mem _ hc)
    have hj : k < j := h (j, d) List.mem_cons_self
    intro c hc
    unfold memPut at hc
    split at hc
    · rcases List.mem_cons.1 hc with rfl | hc
      · exact hk
      · exact h c hc
    · split at hc
      · rcases List.mem_cons.1 hc with rfl | hc
        · exact hk
        · exact h c (List.mem_cons_of_mem _ hc)
      · rcases List.mem_cons.1 hc with rfl | hc
        · exact hj
        · exact hm c hc

theorem memPut_wf {m : Memory} (i : Nat) (b : Byte) (h : m.wf) : (memPut m i b).wf := by
  induction m with
  | nil => simp [memPut, Memory.wf]
  | cons c m ih =>
    obtain ⟨k, c⟩ := c
    have hhead := (List.pairwise_cons.1 h).1
    have htail := (List.pairwise_cons.1 h).2
    unfold memPut
    split
    · refine List.pairwise_cons.2 ⟨fun d hd => ?_, h⟩
      rcases List.mem_cons.1 hd with rfl | hd
      · assumption
      · exact Nat.lt_trans (by assumption) (hhead d hd)
    · split
      · rename_i heq
        exact List.pairwise_cons.2 ⟨fun d hd => by simpa [heq] using hhead d hd, htail⟩
      · exact List.pairwise_cons.2 ⟨memPut_lower m b (by omega) hhead, ih htail⟩

/-- Every write keeps the canonical form. -/
theorem memWrite_wf {m : Memory} (a : Nat) (bs : List Byte) (h : m.wf) : (memWrite m a bs).wf := by
  induction bs generalizing m a with
  | nil => exact h
  | cons b bs ih => exact ih (a + 1) (memPut_wf a b h)

theorem empty_wf : Memory.wf [] := List.Pairwise.nil

theorem reset_memories_wf (c : Config) :
    (State.resetOf c).tx.wf ∧ (State.resetOf c).rx.wf := ⟨empty_wf, empty_wf⟩

/-! ## Byte sequences -/

/-- Reading back after `MemWrite`: the written bytes in the written range, the old bytes outside it. -/
theorem memGet_memWrite (m : Memory) (a : Nat) (bs : List Byte) (j : Nat) :
    memGet (memWrite m a bs) j =
      if a ≤ j ∧ j < a + bs.length then bs[j - a]? else memGet m j := by
  induction bs generalizing m a with
  | nil => simp
  | cons b bs ih =>
    simp only [memWrite, ih, memGet_memPut, List.length_cons]
    by_cases hj : j = a
    · subst hj
      simp
    · by_cases hin : a + 1 ≤ j ∧ j < a + 1 + bs.length
      · have hsub : j - a = (j - (a + 1)) + 1 := by omega
        rw [if_pos hin, if_pos (by omega), hsub, List.getElem?_cons_succ]
      · rw [if_neg hin, if_neg hj, if_neg (by omega)]

/-- `MemRead` is defined exactly when every byte has a value, and returns those bytes in order. -/
theorem memRead_eq_some_iff (m : Memory) (a n : Nat) (bs : List Byte) :
    memRead m a n = some bs ↔ bs.length = n ∧ ∀ k < n, memGet m (a + k) = bs[k]? := by
  induction n generalizing a bs with
  | zero => cases bs <;> simp
  | succ n ih =>
    constructor
    · intro h
      simp only [memRead] at h
      split at h
      · rename_i b bs' hb hbs
        obtain rfl := Option.some.inj h
        obtain ⟨hlen, hget⟩ := (ih _ _).1 hbs
        refine ⟨by simp [hlen], fun k hk => ?_⟩
        cases k with
        | zero => simpa using hb
        | succ k =>
          have := hget k (by omega)
          simpa [Nat.add_assoc, Nat.add_comm 1] using this
      · cases h
    · rintro ⟨hlen, hget⟩
      cases bs with
      | nil => simp at hlen
      | cons b bs =>
        have h0 : memGet m a = some b := by simpa using hget 0 (by omega)
        have hrest : memRead m (a + 1) n = some bs := by
          refine (ih _ _).2 ⟨by simpa using hlen, fun k hk => ?_⟩
          have := hget (k + 1) (by omega)
          simpa [Nat.add_assoc, Nat.add_comm 1] using this
        simp [memRead, h0, hrest]

theorem memRead_length {m : Memory} {a n : Nat} {bs : List Byte} (h : memRead m a n = some bs) :
    bs.length = n := ((memRead_eq_some_iff m a n bs).1 h).1

/-! ## Buffers that hold exactly their first bytes -/

/-- A buffer whose listed indices are `a, a+1, …` holds its bytes at those indices. -/
theorem memGet_of_consecutive (m : Memory) (a n : Nat) (h : m.map Prod.fst = List.range' a n) (i : Nat) :
    memGet m i = if a ≤ i then (m.map Prod.snd)[i - a]? else none := by
  induction m generalizing a n with
  | nil => simp
  | cons c m ih =>
    obtain ⟨k, b⟩ := c
    cases n with
    | zero => simp at h
    | succ n =>
      rw [List.map_cons, List.range'_succ] at h
      obtain ⟨rfl, htail⟩ := List.cons.inj h
      simp only [memGet, ih _ _ htail, List.map_cons]
      by_cases hk : k = i
      · subst hk
        simp
      · by_cases hle : k ≤ i
        · have hsub : i - k = (i - (k + 1)) + 1 := by omega
          rw [if_neg hk, if_pos (by omega), if_pos hle, hsub, List.getElem?_cons_succ]
        · rw [if_neg hk, if_neg (by omega), if_neg hle]

theorem holdsFirst_nil : Memory.holdsFirst [] 0 := rfl

theorem memGet_of_holdsFirst {m : Memory} {n : Nat} (h : m.holdsFirst n) (i : Nat) :
    memGet m i = (m.map Prod.snd)[i]? := by
  have := memGet_of_consecutive m 0 n (by rw [h, List.range_eq_range']) i
  simpa using this

theorem length_of_holdsFirst {m : Memory} {n : Nat} (h : m.holdsFirst n) : m.length = n := by
  have := congrArg List.length h
  simpa using this

/-- Byte `i` has a value exactly below `n`. -/
theorem memGet_isSome_of_holdsFirst {m : Memory} {n : Nat} (h : m.holdsFirst n) (i : Nat) :
    (memGet m i).isSome ↔ i < n := by
  rw [memGet_of_holdsFirst h]
  simp [length_of_holdsFirst h]

/-- `MemRead` inside the held bytes is defined, and gives the held bytes. -/
theorem memRead_of_holdsFirst {m : Memory} {n : Nat} (h : m.holdsFirst n) {a k : Nat} (hk : a + k ≤ n) :
    memRead m a k = some (((m.map Prod.snd).drop a).take k) := by
  refine (memRead_eq_some_iff m a k _).2 ⟨?_, fun j hj => ?_⟩
  · simp [length_of_holdsFirst h]
    omega
  · rw [memGet_of_holdsFirst h, List.getElem?_take, if_pos hj, List.getElem?_drop]

theorem wf_of_holdsFirst {m : Memory} {n : Nat} (h : m.holdsFirst n) : m.wf := by
  have hlt : (m.map Prod.fst).Pairwise (· < ·) := by
    rw [h]
    exact List.pairwise_lt_range
  simpa [Memory.wf, List.pairwise_map] using hlt

/-- In a state that meets the invariant both buffers have their canonical form. -/
theorem State.Inv.memories_wf {s : State} (h : s.Inv) : s.tx.wf ∧ s.rx.wf :=
  ⟨wf_of_holdsFirst h.tx.cells, wf_of_holdsFirst h.rx.cells⟩

theorem memPut_append (m : Memory) (i : Nat) (b : Byte) (h : ∀ c ∈ m, c.1 < i) :
    memPut m i b = m ++ [(i, b)] := by
  induction m with
  | nil => rfl
  | cons c m ih =>
    obtain ⟨k, c⟩ := c
    have hk : k < i := h (k, c) List.mem_cons_self
    have htail := ih fun d hd => h d (List.mem_cons_of_mem _ hd)
    simp [memPut, htail, show ¬ i < k by omega, show i ≠ k by omega]

/-- Writing at the first free index appends. -/
theorem memWrite_at_end {m : Memory} {n : Nat} (h : m.holdsFirst n) (bs : List Byte) :
    (memWrite m n bs).holdsFirst (n + bs.length) ∧
      (memWrite m n bs).map Prod.snd = m.map Prod.snd ++ bs := by
  induction bs generalizing m n with
  | nil => simpa using h
  | cons b bs ih =>
    have hlow : ∀ c ∈ m, c.1 < n := fun c hc => by
      have : c.1 ∈ m.map Prod.fst := List.mem_map_of_mem hc
      rw [h] at this
      exact List.mem_range.1 this
    have hput := memPut_append m n b hlow
    have hfirst : (memPut m n b).holdsFirst (n + 1) := by
      rw [hput, Memory.holdsFirst, List.map_append, h, List.range_succ]
      rfl
    obtain ⟨h1, h2⟩ := ih hfirst
    refine ⟨?_, ?_⟩
    · simpa [memWrite, Nat.add_assoc, Nat.add_comm 1] using h1
    · rw [memWrite, h2, hput]
      simp

theorem memPut_replace (m : Memory) (i : Nat) (b : Byte) (n : Nat) (a : Nat)
    (h : m.map Prod.fst = List.range' a n) (hi : a ≤ i ∧ i < a + n) :
    (memPut m i b).map Prod.fst = List.range' a n ∧
      (memPut m i b).map Prod.snd = (m.map Prod.snd).set (i - a) b := by
  induction m generalizing a n with
  | nil =>
    cases n with
    | zero => omega
    | succ n => simp [List.range'_succ] at h
  | cons c m ih =>
    obtain ⟨k, c⟩ := c
    cases n with
    | zero => omega
    | succ n =>
      rw [List.map_cons, List.range'_succ] at h
      obtain ⟨rfl, htail⟩ := List.cons.inj h
      by_cases hk : i = k
      · subst hk
        simp [memPut, htail, List.range'_succ]
      · obtain ⟨h1, h2⟩ := ih n (k + 1) htail (by omega)
        have hsub : i - k = (i - (k + 1)) + 1 := by omega
        simp [memPut, show ¬ i < k by omega, hk, h1, h2, List.range'_succ, hsub]

/-- Rewriting a whole buffer from index 0 replaces its bytes. -/
theorem memWrite_over {m : Memory} {n : Nat} (h : m.holdsFirst n) (bs : List Byte) (hlen : bs.length = n) :
    (memWrite m 0 bs).holdsFirst n ∧ (memWrite m 0 bs).map Prod.snd = bs := by
  have key : ∀ (bs : List Byte) (m : Memory) (a : Nat), m.holdsFirst n → a + bs.length ≤ n →
      (memWrite m a bs).holdsFirst n ∧
        (memWrite m a bs).map Prod.snd =
          (m.map Prod.snd).take a ++ bs ++ (m.map Prod.snd).drop (a + bs.length) := by
    intro bs
    induction bs with
    | nil => intro m a hm _; exact ⟨hm, by simp⟩
    | cons b bs ih =>
      intro m a hm ha
      simp only [List.length_cons] at ha
      obtain ⟨hf, hs⟩ := memPut_replace m a b n 0 (by rw [hm, List.range_eq_range']) (by omega)
      rw [Nat.sub_zero] at hs
      obtain ⟨h1, h2⟩ := ih (memPut m a b) (a + 1) (by rw [Memory.holdsFirst, hf, List.range_eq_range']) (by omega)
      refine ⟨h1, ?_⟩
      have hl : a < (m.map Prod.snd).length := by
        rw [List.length_map, length_of_holdsFirst hm]
        omega
      have h3 : ((m.map Prod.snd).set a b).take (a + 1) = (m.map Prod.snd).take a ++ [b] := by
        rw [List.take_add_one, List.take_set_of_le (Nat.le_refl a),
          List.getElem?_set_self hl]
        rfl
      have h4 : ((m.map Prod.snd).set a b).drop (a + 1 + bs.length) =
          (m.map Prod.snd).drop (a + (bs.length + 1)) := by
        rw [List.drop_set_of_lt (by omega)]
        congr 1
        omega
      rw [memWrite, h2, hs, h3, h4]
      simp
  obtain ⟨h1, h2⟩ := key bs m 0 h (by omega)
  refine ⟨h1, ?_⟩
  rw [h2, List.drop_eq_nil_of_le (by rw [List.length_map, length_of_holdsFirst h]; omega)]
  simp

end Sys2Proof.Machine
end

