-- ==== Sys2Proof/Laws/State.lean ====
section
/-! SUPPORT. One lemma per field per named update of State: what the update writes and what it keeps. -/

namespace Sys2Proof.Machine

/-! ## A rejection (R117). -/

@[simp] theorem reject_crc (e : ErrCode) (s : State) : (reject e s).crc = s.crc := rfl
@[simp] theorem reject_tx (e : ErrCode) (s : State) : (reject e s).tx = s.tx := rfl
@[simp] theorem reject_txValid (e : ErrCode) (s : State) : (reject e s).txValid = s.txValid := rfl
@[simp] theorem reject_respLen (e : ErrCode) (s : State) : (reject e s).respLen = s.respLen := rfl
@[simp] theorem reject_rx (e : ErrCode) (s : State) : (reject e s).rx = s.rx := rfl
@[simp] theorem reject_rxCount (e : ErrCode) (s : State) : (reject e s).rxCount = s.rxCount := rfl
@[simp] theorem reject_rxExpected (e : ErrCode) (s : State) : (reject e s).rxExpected = s.rxExpected := rfl
@[simp] theorem reject_rxElapsed (e : ErrCode) (s : State) : (reject e s).rxElapsed = s.rxElapsed := rfl
@[simp] theorem reject_rxDeadline (e : ErrCode) (s : State) : (reject e s).rxDeadline = s.rxDeadline := rfl
@[simp] theorem reject_rxState (e : ErrCode) (s : State) : (reject e s).rxState = s.rxState := rfl
@[simp] theorem reject_shortReason (e : ErrCode) (s : State) : (reject e s).shortReason = s.shortReason := rfl
@[simp] theorem reject_decValue (e : ErrCode) (s : State) : (reject e s).decValue = s.decValue := rfl
@[simp] theorem reject_decValid (e : ErrCode) (s : State) : (reject e s).decValid = s.decValid := rfl
@[simp] theorem reject_decOrder (e : ErrCode) (s : State) : (reject e s).decOrder = s.decOrder := rfl
@[simp] theorem reject_reading (e : ErrCode) (s : State) : (reject e s).reading = s.reading := rfl
@[simp] theorem reject_readingOrder (e : ErrCode) (s : State) : (reject e s).readingOrder = s.readingOrder := rfl
@[simp] theorem reject_readingValid (e : ErrCode) (s : State) : (reject e s).readingValid = s.readingValid := rfl
@[simp] theorem reject_err (e : ErrCode) (s : State) : (reject e s).err = e := rfl
@[simp] theorem reject_errSticky (e : ErrCode) (s : State) : (reject e s).errSticky = true := rfl
@[simp] theorem reject_cfg (e : ErrCode) (s : State) : (reject e s).cfg = s.cfg := rfl
@[simp] theorem reject_inbox (e : ErrCode) (s : State) : (reject e s).inbox = s.inbox := rfl
@[simp] theorem reject_readResult (e : ErrCode) (s : State) : (reject e s).readResult = s.readResult := rfl

/-! ## A done command (R117). -/

@[simp] theorem done_crc (s : State) : (done s).crc = s.crc := rfl
@[simp] theorem done_tx (s : State) : (done s).tx = s.tx := rfl
@[simp] theorem done_txValid (s : State) : (done s).txValid = s.txValid := rfl
@[simp] theorem done_respLen (s : State) : (done s).respLen = s.respLen := rfl
@[simp] theorem done_rx (s : State) : (done s).rx = s.rx := rfl
@[simp] theorem done_rxCount (s : State) : (done s).rxCount = s.rxCount := rfl
@[simp] theorem done_rxExpected (s : State) : (done s).rxExpected = s.rxExpected := rfl
@[simp] theorem done_rxElapsed (s : State) : (done s).rxElapsed = s.rxElapsed := rfl
@[simp] theorem done_rxDeadline (s : State) : (done s).rxDeadline = s.rxDeadline := rfl
@[simp] theorem done_rxState (s : State) : (done s).rxState = s.rxState := rfl
@[simp] theorem done_shortReason (s : State) : (done s).shortReason = s.shortReason := rfl
@[simp] theorem done_decValue (s : State) : (done s).decValue = s.decValue := rfl
@[simp] theorem done_decValid (s : State) : (done s).decValid = s.decValid := rfl
@[simp] theorem done_decOrder (s : State) : (done s).decOrder = s.decOrder := rfl
@[simp] theorem done_reading (s : State) : (done s).reading = s.reading := rfl
@[simp] theorem done_readingOrder (s : State) : (done s).readingOrder = s.readingOrder := rfl
@[simp] theorem done_readingValid (s : State) : (done s).readingValid = s.readingValid := rfl
@[simp] theorem done_err (s : State) : (done s).err = .none := rfl
@[simp] theorem done_errSticky (s : State) : (done s).errSticky = s.errSticky := rfl
@[simp] theorem done_cfg (s : State) : (done s).cfg = s.cfg := rfl
@[simp] theorem done_inbox (s : State) : (done s).inbox = s.inbox := rfl
@[simp] theorem done_readResult (s : State) : (done s).readResult = s.readResult := rfl

/-! ## The accumulation of a response step (R93). -/

@[simp] theorem accumulate_crc (e : U32) (s : State) : (accumulate e s).crc = s.crc := rfl
@[simp] theorem accumulate_tx (e : U32) (s : State) : (accumulate e s).tx = s.tx := rfl
@[simp] theorem accumulate_txValid (e : U32) (s : State) : (accumulate e s).txValid = s.txValid := rfl
@[simp] theorem accumulate_respLen (e : U32) (s : State) : (accumulate e s).respLen = s.respLen := rfl
@[simp] theorem accumulate_rx (e : U32) (s : State) : (accumulate e s).rx = s.rx := rfl
@[simp] theorem accumulate_rxCount (e : U32) (s : State) : (accumulate e s).rxCount = s.rxCount := rfl
@[simp] theorem accumulate_rxExpected (e : U32) (s : State) : (accumulate e s).rxExpected = s.rxExpected := rfl
@[simp] theorem accumulate_rxElapsed (e : U32) (s : State) : (accumulate e s).rxElapsed = satAdd s.rxElapsed e := rfl
@[simp] theorem accumulate_rxDeadline (e : U32) (s : State) : (accumulate e s).rxDeadline = s.rxDeadline := rfl
@[simp] theorem accumulate_rxState (e : U32) (s : State) : (accumulate e s).rxState = s.rxState := rfl
@[simp] theorem accumulate_shortReason (e : U32) (s : State) : (accumulate e s).shortReason = s.shortReason := rfl
@[simp] theorem accumulate_decValue (e : U32) (s : State) : (accumulate e s).decValue = s.decValue := rfl
@[simp] theorem accumulate_decValid (e : U32) (s : State) : (accumulate e s).decValid = s.decValid := rfl
@[simp] theorem accumulate_decOrder (e : U32) (s : State) : (accumulate e s).decOrder = s.decOrder := rfl
@[simp] theorem accumulate_reading (e : U32) (s : State) : (accumulate e s).reading = s.reading := rfl
@[simp] theorem accumulate_readingOrder (e : U32) (s : State) : (accumulate e s).readingOrder = s.readingOrder := rfl
@[simp] theorem accumulate_readingValid (e : U32) (s : State) : (accumulate e s).readingValid = s.readingValid := rfl
@[simp] theorem accumulate_err (e : U32) (s : State) : (accumulate e s).err = s.err := rfl
@[simp] theorem accumulate_errSticky (e : U32) (s : State) : (accumulate e s).errSticky = s.errSticky := rfl
@[simp] theorem accumulate_cfg (e : U32) (s : State) : (accumulate e s).cfg = s.cfg := rfl
@[simp] theorem accumulate_inbox (e : U32) (s : State) : (accumulate e s).inbox = s.inbox := rfl
@[simp] theorem accumulate_readResult (e : U32) (s : State) : (accumulate e s).readResult = s.readResult := rfl

/-! ## The short end of a read (R95, R97, R99). -/

@[simp] theorem endShort_crc (r : ShortReason) (s : State) : (endShort r s).crc = s.crc := rfl
@[simp] theorem endShort_tx (r : ShortReason) (s : State) : (endShort r s).tx = s.tx := rfl
@[simp] theorem endShort_txValid (r : ShortReason) (s : State) : (endShort r s).txValid = s.txValid := rfl
@[simp] theorem endShort_respLen (r : ShortReason) (s : State) : (endShort r s).respLen = s.respLen := rfl
@[simp] theorem endShort_rx (r : ShortReason) (s : State) : (endShort r s).rx = s.rx := rfl
@[simp] theorem endShort_rxCount (r : ShortReason) (s : State) : (endShort r s).rxCount = s.rxCount := rfl
@[simp] theorem endShort_rxExpected (r : ShortReason) (s : State) : (endShort r s).rxExpected = s.rxExpected := rfl
@[simp] theorem endShort_rxElapsed (r : ShortReason) (s : State) : (endShort r s).rxElapsed = s.rxElapsed := rfl
@[simp] theorem endShort_rxDeadline (r : ShortReason) (s : State) : (endShort r s).rxDeadline = s.rxDeadline := rfl
@[simp] theorem endShort_rxState (r : ShortReason) (s : State) : (endShort r s).rxState = .doneShort := rfl
@[simp] theorem endShort_shortReason (r : ShortReason) (s : State) : (endShort r s).shortReason = r := rfl
@[simp] theorem endShort_decValue (r : ShortReason) (s : State) : (endShort r s).decValue = s.decValue := rfl
@[simp] theorem endShort_decValid (r : ShortReason) (s : State) : (endShort r s).decValid = s.decValid := rfl
@[simp] theorem endShort_decOrder (r : ShortReason) (s : State) : (endShort r s).decOrder = s.decOrder := rfl
@[simp] theorem endShort_reading (r : ShortReason) (s : State) : (endShort r s).reading = s.reading := rfl
@[simp] theorem endShort_readingOrder (r : ShortReason) (s : State) : (endShort r s).readingOrder = s.readingOrder := rfl
@[simp] theorem endShort_readingValid (r : ShortReason) (s : State) : (endShort r s).readingValid = s.readingValid := rfl
@[simp] theorem endShort_err (r : ShortReason) (s : State) : (endShort r s).err = s.err := rfl
@[simp] theorem endShort_errSticky (r : ShortReason) (s : State) : (endShort r s).errSticky = s.errSticky := rfl
@[simp] theorem endShort_cfg (r : ShortReason) (s : State) : (endShort r s).cfg = s.cfg := rfl
@[simp] theorem endShort_inbox (r : ShortReason) (s : State) : (endShort r s).inbox = s.inbox := rfl
@[simp] theorem endShort_readResult (r : ShortReason) (s : State) : (endShort r s).readResult = s.readResult := rfl

/-! ## The fault of R96. -/

@[simp] theorem overflowFault_crc (s : State) : (overflowFault s).crc = s.crc := rfl
@[simp] theorem overflowFault_tx (s : State) : (overflowFault s).tx = s.tx := rfl
@[simp] theorem overflowFault_txValid (s : State) : (overflowFault s).txValid = s.txValid := rfl
@[simp] theorem overflowFault_respLen (s : State) : (overflowFault s).respLen = s.respLen := rfl
@[simp] theorem overflowFault_rx (s : State) : (overflowFault s).rx = s.rx := rfl
@[simp] theorem overflowFault_rxCount (s : State) : (overflowFault s).rxCount = s.rxCount := rfl
@[simp] theorem overflowFault_rxExpected (s : State) : (overflowFault s).rxExpected = s.rxExpected := rfl
@[simp] theorem overflowFault_rxElapsed (s : State) : (overflowFault s).rxElapsed = s.rxElapsed := rfl
@[simp] theorem overflowFault_rxDeadline (s : State) : (overflowFault s).rxDeadline = s.rxDeadline := rfl
@[simp] theorem overflowFault_rxState (s : State) : (overflowFault s).rxState = .doneFault := rfl
@[simp] theorem overflowFault_shortReason (s : State) : (overflowFault s).shortReason = s.shortReason := rfl
@[simp] theorem overflowFault_decValue (s : State) : (overflowFault s).decValue = s.decValue := rfl
@[simp] theorem overflowFault_decValid (s : State) : (overflowFault s).decValid = s.decValid := rfl
@[simp] theorem overflowFault_decOrder (s : State) : (overflowFault s).decOrder = s.decOrder := rfl
@[simp] theorem overflowFault_reading (s : State) : (overflowFault s).reading = s.reading := rfl
@[simp] theorem overflowFault_readingOrder (s : State) : (overflowFault s).readingOrder = s.readingOrder := rfl
@[simp] theorem overflowFault_readingValid (s : State) : (overflowFault s).readingValid = s.readingValid := rfl
@[simp] theorem overflowFault_err (s : State) : (overflowFault s).err = .chunkOverflow := rfl
@[simp] theorem overflowFault_errSticky (s : State) : (overflowFault s).errSticky = true := rfl
@[simp] theorem overflowFault_cfg (s : State) : (overflowFault s).cfg = s.cfg := rfl
@[simp] theorem overflowFault_inbox (s : State) : (overflowFault s).inbox = s.inbox := rfl
@[simp] theorem overflowFault_readResult (s : State) : (overflowFault s).readResult = s.readResult := rfl

/-! ## The collection of bytes (R98). -/

@[simp] theorem collect_crc (bs : List Byte) (s : State) : (collect bs s).crc = s.crc := rfl
@[simp] theorem collect_tx (bs : List Byte) (s : State) : (collect bs s).tx = s.tx := rfl
@[simp] theorem collect_txValid (bs : List Byte) (s : State) : (collect bs s).txValid = s.txValid := rfl
@[simp] theorem collect_respLen (bs : List Byte) (s : State) : (collect bs s).respLen = s.respLen := rfl
@[simp] theorem collect_rx (bs : List Byte) (s : State) : (collect bs s).rx = memWrite s.rx s.rxCount.toNat bs := rfl
@[simp] theorem collect_rxCount (bs : List Byte) (s : State) : (collect bs s).rxCount = BitVec.ofNat 16 (s.rxCount.toNat + bs.length) := rfl
@[simp] theorem collect_rxExpected (bs : List Byte) (s : State) : (collect bs s).rxExpected = s.rxExpected := rfl
@[simp] theorem collect_rxElapsed (bs : List Byte) (s : State) : (collect bs s).rxElapsed = s.rxElapsed := rfl
@[simp] theorem collect_rxDeadline (bs : List Byte) (s : State) : (collect bs s).rxDeadline = s.rxDeadline := rfl
@[simp] theorem collect_rxState (bs : List Byte) (s : State) : (collect bs s).rxState = s.rxState := rfl
@[simp] theorem collect_shortReason (bs : List Byte) (s : State) : (collect bs s).shortReason = s.shortReason := rfl
@[simp] theorem collect_decValue (bs : List Byte) (s : State) : (collect bs s).decValue = s.decValue := rfl
@[simp] theorem collect_decValid (bs : List Byte) (s : State) : (collect bs s).decValid = s.decValid := rfl
@[simp] theorem collect_decOrder (bs : List Byte) (s : State) : (collect bs s).decOrder = s.decOrder := rfl
@[simp] theorem collect_reading (bs : List Byte) (s : State) : (collect bs s).reading = s.reading := rfl
@[simp] theorem collect_readingOrder (bs : List Byte) (s : State) : (collect bs s).readingOrder = s.readingOrder := rfl
@[simp] theorem collect_readingValid (bs : List Byte) (s : State) : (collect bs s).readingValid = s.readingValid := rfl
@[simp] theorem collect_err (bs : List Byte) (s : State) : (collect bs s).err = s.err := rfl
@[simp] theorem collect_errSticky (bs : List Byte) (s : State) : (collect bs s).errSticky = s.errSticky := rfl
@[simp] theorem collect_cfg (bs : List Byte) (s : State) : (collect bs s).cfg = s.cfg := rfl
@[simp] theorem collect_inbox (bs : List Byte) (s : State) : (collect bs s).inbox = s.inbox := rfl
@[simp] theorem collect_readResult (bs : List Byte) (s : State) : (collect bs s).readResult = s.readResult := rfl

/-! ## A host read (R48). -/

@[simp] theorem recordRead_crc (idx : Index) (s : State) : (recordRead idx s).crc = s.crc := rfl
@[simp] theorem recordRead_tx (idx : Index) (s : State) : (recordRead idx s).tx = s.tx := rfl
@[simp] theorem recordRead_txValid (idx : Index) (s : State) : (recordRead idx s).txValid = s.txValid := rfl
@[simp] theorem recordRead_respLen (idx : Index) (s : State) : (recordRead idx s).respLen = s.respLen := rfl
@[simp] theorem recordRead_rx (idx : Index) (s : State) : (recordRead idx s).rx = s.rx := rfl
@[simp] theorem recordRead_rxCount (idx : Index) (s : State) : (recordRead idx s).rxCount = s.rxCount := rfl
@[simp] theorem recordRead_rxExpected (idx : Index) (s : State) : (recordRead idx s).rxExpected = s.rxExpected := rfl
@[simp] theorem recordRead_rxElapsed (idx : Index) (s : State) : (recordRead idx s).rxElapsed = s.rxElapsed := rfl
@[simp] theorem recordRead_rxDeadline (idx : Index) (s : State) : (recordRead idx s).rxDeadline = s.rxDeadline := rfl
@[simp] theorem recordRead_rxState (idx : Index) (s : State) : (recordRead idx s).rxState = s.rxState := rfl
@[simp] theorem recordRead_shortReason (idx : Index) (s : State) : (recordRead idx s).shortReason = s.shortReason := rfl
@[simp] theorem recordRead_decValue (idx : Index) (s : State) : (recordRead idx s).decValue = s.decValue := rfl
@[simp] theorem recordRead_decValid (idx : Index) (s : State) : (recordRead idx s).decValid = s.decValid := rfl
@[simp] theorem recordRead_decOrder (idx : Index) (s : State) : (recordRead idx s).decOrder = s.decOrder := rfl
@[simp] theorem recordRead_reading (idx : Index) (s : State) : (recordRead idx s).reading = s.reading := rfl
@[simp] theorem recordRead_readingOrder (idx : Index) (s : State) : (recordRead idx s).readingOrder = s.readingOrder := rfl
@[simp] theorem recordRead_readingValid (idx : Index) (s : State) : (recordRead idx s).readingValid = s.readingValid := rfl
@[simp] theorem recordRead_err (idx : Index) (s : State) : (recordRead idx s).err = s.err := rfl
@[simp] theorem recordRead_errSticky (idx : Index) (s : State) : (recordRead idx s).errSticky = s.errSticky := rfl
@[simp] theorem recordRead_cfg (idx : Index) (s : State) : (recordRead idx s).cfg = s.cfg := rfl
@[simp] theorem recordRead_inbox (idx : Index) (s : State) : (recordRead idx s).inbox = s.inbox := rfl
@[simp] theorem recordRead_readResult (idx : Index) (s : State) : (recordRead idx s).readResult = some (readPort s idx) := rfl

/-! ## Reset (R39, R132). -/

@[simp] theorem resetBlock_crc (s : State) : (resetBlock s).crc = crcInitial := rfl
@[simp] theorem resetBlock_tx (s : State) : (resetBlock s).tx = [] := rfl
@[simp] theorem resetBlock_txValid (s : State) : (resetBlock s).txValid = false := rfl
@[simp] theorem resetBlock_respLen (s : State) : (resetBlock s).respLen = none := rfl
@[simp] theorem resetBlock_rx (s : State) : (resetBlock s).rx = [] := rfl
@[simp] theorem resetBlock_rxCount (s : State) : (resetBlock s).rxCount = 0#16 := rfl
@[simp] theorem resetBlock_rxExpected (s : State) : (resetBlock s).rxExpected = 0#16 := rfl
@[simp] theorem resetBlock_rxElapsed (s : State) : (resetBlock s).rxElapsed = 0#32 := rfl
@[simp] theorem resetBlock_rxDeadline (s : State) : (resetBlock s).rxDeadline = 0#32 := rfl
@[simp] theorem resetBlock_rxState (s : State) : (resetBlock s).rxState = .idle := rfl
@[simp] theorem resetBlock_shortReason (s : State) : (resetBlock s).shortReason = .none := rfl
@[simp] theorem resetBlock_decValue (s : State) : (resetBlock s).decValue = none := rfl
@[simp] theorem resetBlock_decValid (s : State) : (resetBlock s).decValid = false := rfl
@[simp] theorem resetBlock_decOrder (s : State) : (resetBlock s).decOrder = .none := rfl
@[simp] theorem resetBlock_reading (s : State) : (resetBlock s).reading = none := rfl
@[simp] theorem resetBlock_readingOrder (s : State) : (resetBlock s).readingOrder = none := rfl
@[simp] theorem resetBlock_readingValid (s : State) : (resetBlock s).readingValid = false := rfl
@[simp] theorem resetBlock_err (s : State) : (resetBlock s).err = .none := rfl
@[simp] theorem resetBlock_errSticky (s : State) : (resetBlock s).errSticky = false := rfl
@[simp] theorem resetBlock_cfg (s : State) : (resetBlock s).cfg = s.cfg := rfl
@[simp] theorem resetBlock_inbox (s : State) : (resetBlock s).inbox = s.inbox := rfl
@[simp] theorem resetBlock_readResult (s : State) : (resetBlock s).readResult = s.readResult := rfl

end Sys2Proof.Machine
end

