-- ==== Sys2Proof/Laws/Commands.lean ====
section
/-! SUPPORT. For each meaning, everything it can do when it answers a next state. -/

namespace Sys2Proof.Machine

@[simp] theorem raise_eq (e : ErrCode) (s : State) : raise e s = .next (reject e s) := rfl

theorem execCrcCompute_cases {src : BufSrc} {len : U16} {s t : State}
    (h : execCrcCompute src len s = .next t) :
    (src = .rx ∧ s.rxState = .busy ∧ t = reject .busy s) ∨
    (¬ (src = .rx ∧ s.rxState = .busy) ∧ availBytes src s < len.toNat ∧ t = reject .badRange s) ∨
    (¬ (src = .rx ∧ s.rxState = .busy) ∧ len.toNat ≤ availBytes src s ∧
      ∃ bytes, memRead (bufferOf src s) 0 len.toNat = some bytes ∧
        t = done { s with crc := crc16 bytes }) := by
  unfold execCrcCompute at h
  split at h
  · rename_i hb
    exact .inl ⟨hb.1, hb.2, (Host.Outcome.next.inj h).symm⟩
  · rename_i hb
    split at h
    · rename_i hr
      exact .inr (.inl ⟨hb, hr, (Host.Outcome.next.inj h).symm⟩)
    · rename_i hr
      split at h
      · rename_i bytes hm
        exact .inr (.inr ⟨hb, by omega, bytes, hm, (Host.Outcome.next.inj h).symm⟩)
      · cases h

theorem execEncReadReq_cases {dev : Byte} {start count : U16} {s t : State}
    (h : execEncReadReq dev start count s = .next t) :
    ((dev = 0#8 ∨ s.cfg.rxBufBytes < responseLength count) ∧ t = reject .encReject s) ∨
    (dev ≠ 0#8 ∧ responseLength count ≤ s.cfg.rxBufBytes ∧
      t = done { s with
        tx := memWrite s.tx 0 (requestFrame dev start count)
        txValid := true
        respLen := some (BitVec.ofNat 16 (responseLength count))
        crc := requestCrc dev start count }) := by
  unfold execEncReadReq at h
  split at h
  · rename_i hd
    exact .inl ⟨.inl hd, (Host.Outcome.next.inj h).symm⟩
  · rename_i hd
    split at h
    · rename_i hr
      exact .inl ⟨.inr hr, (Host.Outcome.next.inj h).symm⟩
    · rename_i hr
      exact .inr ⟨hd, by omega, (Host.Outcome.next.inj h).symm⟩

theorem execRxReadExact_cases {deadline : U32} {len : U16} {s t : State}
    (h : execRxReadExact deadline len s = .next t) :
    (s.rxState = .busy ∧ t = reject .busy s) ∨
    (s.rxState ≠ .busy ∧ s.cfg.rxBufBytes < len.toNat ∧ t = reject .rxReject s) ∨
    (s.rxState ≠ .busy ∧ len.toNat ≤ s.cfg.rxBufBytes ∧
      t = done { s with
        rxExpected := len, rxDeadline := deadline, rx := [], rxCount := 0#16, rxElapsed := 0#32
        shortReason := .none, decValue := none, decValid := false, decOrder := .none
        reading := none, readingOrder := none, readingValid := false
        rxState := if len = 0#16 then .doneOk else .busy }) := by
  unfold execRxReadExact at h
  split at h
  · rename_i hb
    exact .inl ⟨hb, (Host.Outcome.next.inj h).symm⟩
  · rename_i hb
    split at h
    · rename_i hr
      exact .inr (.inl ⟨hb, hr, (Host.Outcome.next.inj h).symm⟩)
    · rename_i hr
      exact .inr (.inr ⟨hb, by omega, (Host.Outcome.next.inj h).symm⟩)

theorem execDecFloat32_cases {off : U16} {s t : State} (h : execDecFloat32 off s = .next t) :
    (s.rxState = .busy ∧ t = reject .busy s) ∨
    (s.rxState ≠ .busy ∧ s.rxCount.toNat < off.toNat + 4 ∧ t = reject .badRange s) ∨
    (s.rxState ≠ .busy ∧ off.toNat + 4 ≤ s.rxCount.toNat ∧
      ∃ u ord, decodeField s.rx off.toNat = some (u, ord) ∧
        t = done { s with decValue := some u, decOrder := ord, decValid := true }) := by
  unfold execDecFloat32 at h
  split at h
  · rename_i hb
    exact .inl ⟨hb, (Host.Outcome.next.inj h).symm⟩
  · rename_i hb
    split at h
    · rename_i hr
      exact .inr (.inl ⟨hb, hr, (Host.Outcome.next.inj h).symm⟩)
    · rename_i hr
      split at h
      · rename_i u ord hd
        exact .inr (.inr ⟨hb, by omega, u, ord, hd, (Host.Outcome.next.inj h).symm⟩)
      · cases h

theorem execDecReading_cases {s t : State} (h : execDecReading s = .next t) :
    (s.rxState = .busy ∧ t = reject .busy s) ∨
    (s.rxState ≠ .busy ∧ (s.rxState ≠ .doneOk ∨ s.rxExpected.toNat ≠ readingRespLen) ∧
      t = reject .noFrame s) ∨
    (s.rxState = .doneOk ∧ s.rxExpected.toNat = readingRespLen ∧
      ∃ r orders, decodeFields s.rx = some (r, orders) ∧
        t = done { s with reading := some r, readingOrder := some orders, readingValid := true }) := by
  unfold execDecReading at h
  split at h
  · rename_i hb
    exact .inl ⟨hb, (Host.Outcome.next.inj h).symm⟩
  · rename_i hb
    split at h
    · rename_i hr
      exact .inr (.inl ⟨hb, hr, (Host.Outcome.next.inj h).symm⟩)
    · rename_i hr
      rw [not_or, not_not, not_not] at hr
      split at h
      · rename_i r orders hd
        exact .inr (.inr ⟨hr.1, hr.2, r, orders, hd, (Host.Outcome.next.inj h).symm⟩)
      · cases h

/-! ## Decoding from a buffer that holds the bytes -/

theorem decodeField_of_holdsFirst {m : Memory} {n off : Nat} (h : m.holdsFirst n) (ho : off + 4 ≤ n) :
    ∃ b0 b1 b2 b3, memRead m off 4 = some [b0, b1, b2, b3] ∧
      decodeField m off = some (resolve b0 b1 b2 b3) := by
  have hm := memRead_of_holdsFirst h ho
  have hl := memRead_length hm
  generalize List.take 4 (List.drop off (List.map Prod.snd m)) = bs at hm hl
  obtain _ | ⟨b0, _ | ⟨b1, _ | ⟨b2, _ | ⟨b3, _ | ⟨b4, bs⟩⟩⟩⟩⟩ := bs <;> simp at hl
  exact ⟨b0, b1, b2, b3, hm, by simp [decodeField, hm]⟩

/-- A field needs four held bytes, and is the resolution of them. -/
theorem decodeField_eq_some {m : Memory} {off : Nat} {p : U32 × DecOrder}
    (h : decodeField m off = some p) :
    ∃ b0 b1 b2 b3, memRead m off 4 = some [b0, b1, b2, b3] ∧ p = resolve b0 b1 b2 b3 := by
  unfold decodeField at h
  split at h
  · rename_i b0 b1 b2 b3 hm
    exact ⟨b0, b1, b2, b3, hm, (Option.some.inj h).symm⟩
  · cases h

theorem decodeFields_of_holdsFirst {m : Memory} {n : Nat} (h : m.holdsFirst n) (hn : 27 ≤ n) :
    ∃ r orders, decodeFields m = some (r, orders) := by
  obtain ⟨_, _, _, _, _, h0⟩ := decodeField_of_holdsFirst (off := 3) h (by omega)
  obtain ⟨_, _, _, _, _, h1⟩ := decodeField_of_holdsFirst (off := 7) h (by omega)
  obtain ⟨_, _, _, _, _, h2⟩ := decodeField_of_holdsFirst (off := 11) h (by omega)
  obtain ⟨_, _, _, _, _, h3⟩ := decodeField_of_holdsFirst (off := 15) h (by omega)
  obtain ⟨_, _, _, _, _, h4⟩ := decodeField_of_holdsFirst (off := 19) h (by omega)
  obtain ⟨_, _, _, _, _, h5⟩ := decodeField_of_holdsFirst (off := 23) h (by omega)
  exact ⟨_, _, by simp only [decodeFields, h0, h1, h2, h3, h4, h5]; rfl⟩

end Sys2Proof.Machine
end

