-- ==== Sys2Proof/Laws/Events.lean ====
section
/-! SUPPORT. For each event and for the step, everything it can do. -/

namespace Sys2Proof.Machine

/-! ## Saturation (R27) -/

theorem satAdd_toNat (a b : U32) : (satAdd a b).toNat = min (a.toNat + b.toNat) (2 ^ 32 - 1) := by
  simp only [satAdd, BitVec.toNat_ofNat]
  exact Nat.mod_eq_of_lt (by omega)

/-! ## The response step (R93) -/

theorem respond_of_not_busy {a : Answer} {s : State} (h : s.rxState ≠ .busy) : respond a s = s :=
  if_neg h

/-- The cases of a response step while BUSY, in the order of R119. -/
theorem respond_cases {a : Answer} {s : State} (hb : s.rxState = .busy) :
    (∃ e, a = .notReady e ∧ respond a s = { accumulate e s with rxState := .doneTransportErr }) ∨
    (∃ e, a = .ioError e ∧ respond a s = { accumulate e s with rxState := .doneIoErr }) ∨
    (∃ e, a = .endOfStream e ∧ respond a s = endShort .endOfStream (accumulate e s)) ∨
    (∃ bs e, a = .data bs e ∧ missingBytes s < bs.length ∧
      respond a s = overflowFault (accumulate e s)) ∨
    (∃ e, a = .data [] e ∧ respond a s = endShort .noData (accumulate e s)) ∨
    (∃ bs e, a = .data bs e ∧ 1 ≤ bs.length ∧ bs.length ≤ missingBytes s ∧
      respond a s = settle (collect bs (accumulate e s))) := by
  simp only [respond, hb, if_true, respondBusy]
  cases a with
  | notReady e => exact .inl ⟨e, rfl, rfl⟩
  | ioError e => exact .inr (.inl ⟨e, rfl, rfl⟩)
  | endOfStream e => exact .inr (.inr (.inl ⟨e, rfl, rfl⟩))
  | data bs e =>
    refine .inr (.inr (.inr ?_))
    simp only [Answer.elapsed]
    by_cases hover : missingBytes s < bs.length
    · exact .inl ⟨bs, e, rfl, hover, by rw [if_pos hover]⟩
    · by_cases hempty : bs.length = 0
      · obtain rfl := List.eq_nil_of_length_eq_zero hempty
        exact .inr (.inl ⟨e, rfl, by rw [if_neg hover, if_pos hempty]⟩)
      · exact .inr (.inr ⟨bs, e, rfl, by omega, by omega, by rw [if_neg hover, if_neg hempty]⟩)

/-- The three ends of a collecting step (R98, R99, R100). -/
theorem settle_cases (s : State) :
    (s.rxCount = s.rxExpected ∧ settle s = { s with rxState := .doneOk }) ∨
    (s.rxCount ≠ s.rxExpected ∧ s.rxDeadline ≠ 0#32 ∧ s.rxDeadline.toNat ≤ s.rxElapsed.toNat ∧
      settle s = endShort .deadline s) ∨
    (s.rxCount ≠ s.rxExpected ∧ (s.rxDeadline = 0#32 ∨ s.rxElapsed.toNat < s.rxDeadline.toNat) ∧
      settle s = s) := by
  unfold settle
  by_cases hc : s.rxCount = s.rxExpected
  · exact .inl ⟨hc, if_pos hc⟩
  · by_cases hd : s.rxDeadline ≠ 0#32 ∧ s.rxDeadline.toNat ≤ s.rxElapsed.toNat
    · exact .inr (.inl ⟨hc, hd.1, hd.2, by rw [if_neg hc, if_pos hd]⟩)
    · refine .inr (.inr ⟨hc, ?_, by rw [if_neg hc, if_neg hd]⟩)
      by_cases hz : s.rxDeadline = 0#32
      · exact .inl hz
      · exact .inr (by simpa [hz] using hd)

/-- A response step writes nothing but the reader unit's elements, and the error fields on a fault. -/
theorem respond_frame (a : Answer) (s : State) :
    (respond a s).crc = s.crc ∧ (respond a s).tx = s.tx ∧ (respond a s).txValid = s.txValid ∧
    (respond a s).respLen = s.respLen ∧ (respond a s).rxExpected = s.rxExpected ∧
    (respond a s).rxDeadline = s.rxDeadline ∧ (respond a s).decValue = s.decValue ∧
    (respond a s).decValid = s.decValid ∧ (respond a s).decOrder = s.decOrder ∧
    (respond a s).reading = s.reading ∧ (respond a s).readingOrder = s.readingOrder ∧
    (respond a s).readingValid = s.readingValid ∧ (respond a s).cfg = s.cfg ∧
    (respond a s).inbox = s.inbox ∧ (respond a s).readResult = s.readResult := by
  by_cases hb : s.rxState = .busy
  · rcases respond_cases (a := a) hb with
      ⟨e, -, h⟩ | ⟨e, -, h⟩ | ⟨e, -, h⟩ | ⟨bs, e, -, -, h⟩ | ⟨e, -, h⟩ | ⟨bs, e, -, -, -, h⟩
    case inr.inr.inr.inr.inr =>
      rcases settle_cases (collect bs (accumulate e s)) with ⟨-, hs⟩ | ⟨-, -, -, hs⟩ | ⟨-, -, hs⟩ <;>
        simp [h, hs]
    all_goals simp [h]
  · simp [respond_of_not_busy hb]

/-- A response step writes the error fields only where it ends the read on a fault (R93, R96). -/
theorem respond_err (a : Answer) (s : State) :
    ((respond a s).err = s.err ∧ (respond a s).errSticky = s.errSticky) ∨
    ((respond a s).rxState = .doneFault ∧ (respond a s).err = .chunkOverflow ∧
      (respond a s).errSticky = true) := by
  by_cases hb : s.rxState = .busy
  · rcases respond_cases (a := a) hb with
      ⟨e, -, h⟩ | ⟨e, -, h⟩ | ⟨e, -, h⟩ | ⟨bs, e, -, -, h⟩ | ⟨e, -, h⟩ | ⟨bs, e, -, -, -, h⟩
    case inr.inr.inr.inr.inr =>
      rcases settle_cases (collect bs (accumulate e s)) with ⟨-, hs⟩ | ⟨-, -, -, hs⟩ | ⟨-, -, hs⟩ <;>
        simp [h, hs]
    all_goals simp [h]
  · simp [respond_of_not_busy hb]

/-- What a collecting step does to the count: no wrap-around, since the bytes fit the request. -/
theorem collect_count {bs : List Byte} {s : State} (h1 : 1 ≤ bs.length)
    (h : bs.length ≤ missingBytes s) :
    (collect bs s).rxCount.toNat = s.rxCount.toNat + bs.length ∧
      s.rxCount.toNat + bs.length ≤ s.rxExpected.toNat := by
  unfold missingBytes at h
  have hlt := s.rxExpected.isLt
  refine ⟨?_, by omega⟩
  simp only [collect_rxCount, BitVec.toNat_ofNat]
  exact Nat.mod_eq_of_lt (by omega)

/-! ## The step -/

/-- A step that answers a next state performed the first event of the inbox. -/
theorem step_cases {s t : State} (h : step s = .next t) :
    ∃ e rest, s.inbox = e :: rest ∧ perform e { s with inbox := rest } = .next t := by
  unfold step nextEvent at h
  split at h
  · cases h
  · rename_i e rest he
    exact ⟨e, rest, he, h⟩

/-- A command word either decodes, and its command is performed, or is rejected (R68). -/
theorem issue_cases {w : Word} {s t : State} (h : issue w s = .next t) :
    (∃ i, decode w = some i ∧ exec i s = .next t) ∨
    (decode w = none ∧ t = reject .illegalCommand s) := by
  unfold issue at h
  split at h
  · rename_i i hi
    exact .inl ⟨i, hi, h⟩
  · rename_i hi
    exact .inr ⟨hi, (Host.Outcome.next.inj h).symm⟩

end Sys2Proof.Machine
end

