-- ==== Sys2Proof/Laws/Operands.lean ====
section
/-! SUPPORT. The concatenations of bytes and codes, as numbers and bit by bit. -/

namespace Sys2Proof.Machine

theorem naturalOrder_toNat (b0 b1 b2 b3 : Byte) : (naturalOrder b0 b1 b2 b3).toNat =
    ((b0.toNat * 256 + b1.toNat) * 256 + b2.toNat) * 256 + b3.toNat := by
  have h (w : Nat) (x : BitVec w) (y : Byte) : (x ++ y).toNat = x.toNat * 256 + y.toNat := by
    rw [BitVec.toNat_append, ← Nat.shiftLeft_add_eq_or_of_lt y.isLt, Nat.shiftLeft_eq]
  rw [naturalOrder, h, h, h]

/-- The swapped candidate is the natural one of the exchanged registers (R105). -/
theorem swappedOrder_eq (b0 b1 b2 b3 : Byte) : swappedOrder b0 b1 b2 b3 = naturalOrder b2 b3 b0 b1 := rfl

theorem swappedOrder_toNat (b0 b1 b2 b3 : Byte) : (swappedOrder b0 b1 b2 b3).toNat =
    ((b2.toNat * 256 + b3.toNat) * 256 + b0.toNat) * 256 + b1.toNat :=
  naturalOrder_toNat b2 b3 b0 b1

theorem hiByte_toNat (v : U16) : (hiByte v).toNat = v.toNat / 256 := by
  have := v.isLt
  simp [hiByte, BitVec.extractLsb_toNat, Nat.shiftRight_eq_div_pow]
  omega

theorem loByte_toNat (v : U16) : (loByte v).toNat = v.toNat % 256 := by
  simp [loByte, BitVec.extractLsb_toNat]

/-- Which result `resolve` returns (R107). -/
theorem resolve_of_natural {b0 b1 b2 b3 : Byte} (h : plausible (naturalOrder b0 b1 b2 b3) = true) :
    resolve b0 b1 b2 b3 = (naturalOrder b0 b1 b2 b3, .natural) := if_pos h

theorem resolve_of_swapped {b0 b1 b2 b3 : Byte} (h : plausible (naturalOrder b0 b1 b2 b3) = false)
    (h' : plausible (swappedOrder b0 b1 b2 b3) = true) :
    resolve b0 b1 b2 b3 = (swappedOrder b0 b1 b2 b3, .swapped) := by
  simp [resolve, h, h']

theorem resolve_of_neither {b0 b1 b2 b3 : Byte} (h : plausible (naturalOrder b0 b1 b2 b3) = false)
    (h' : plausible (swappedOrder b0 b1 b2 b3) = false) :
    resolve b0 b1 b2 b3 = (naturalOrder b0 b1 b2 b3, .fallback) := by
  simp [resolve, h, h']

/-- Bit `i` of the STATUS word (R35), field by field from bit 0. -/
theorem statusWord_getLsbD (s : State) (i : Nat) : (statusWord s).getLsbD i =
    if i < 3 then (rxStateCode s.rxState).getLsbD i
    else if i < 5 then (shortReasonCode s.shortReason).getLsbD (i - 3)
    else if i = 5 then s.txValid
    else if i = 6 then s.decValid
    else if i < 9 then (orderCode s.decOrder).getLsbD (i - 7)
    else if i = 9 then s.readingValid
    else if i < 12 then false
    else if i < 16 then (errCode s.err).getLsbD (i - 12)
    else if i = 16 then s.errSticky
    else false := by
  by_cases hi : i < 32
  · unfold statusWord
    interval_cases i <;> simp only [BitVec.getLsbD_append] <;> simp
  · rw [BitVec.getLsbD_of_ge _ _ (by omega)]
    simp [show ¬ i < 3 by omega, show ¬ i < 5 by omega, show i ≠ 5 by omega, show i ≠ 6 by omega,
      show ¬ i < 9 by omega, show i ≠ 9 by omega, show ¬ i < 12 by omega, show ¬ i < 16 by omega,
      show i ≠ 16 by omega]

/-- A field of the STATUS word is `c` when each of its bits is. -/
theorem statusWord_extractLsb (s : State) (hi lo : Nat) (c : BitVec (hi - lo + 1))
    (h : ∀ i < hi - lo + 1, (statusWord s).getLsbD (lo + i) = c.getLsbD i) :
    (statusWord s).extractLsb hi lo = c := by
  refine BitVec.eq_of_getLsbD_eq fun i hi' => ?_
  simp only [BitVec.extractLsb, BitVec.getLsbD_extractLsb', hi', decide_true, Bool.true_and]
  exact h i hi'

end Sys2Proof.Machine
end

