-- ==== Sys2Proof/Laws/PerInstr.lean ====
section
/-! SUPPORT. A family of statements about every command as syntax: the word of a command carries the
command's opcode in bits 63:60 (spec/30_encoding.md R60). -/

namespace Sys2Proof.Laws.OpcodeOfEncode

/-- Bits 63:60 of the command's word are its opcode. -/
def Statement (i : Instr) : Prop := (encode i).extractLsb 63 60 = i.opcode

theorem crcInit : Statement .crcInit := by
  unfold Statement
  decide

theorem crcByte (b : Byte) : Statement (.crcByte b) := by
  unfold Statement encode Instr.opcode
  ext k hk
  interval_cases k <;> simp

theorem crcCompute (src : BufSrc) (len : U16) : Statement (.crcCompute src len) := by
  unfold Statement encode Instr.opcode
  ext k hk
  cases src <;> interval_cases k <;> simp [bitOfBufSrc]

theorem encReadReq (dev : Byte) (start count : U16) : Statement (.encReadReq dev start count) := by
  unfold Statement encode Instr.opcode
  ext k hk
  interval_cases k <;> simp

theorem rxReadExact (deadline : U32) (len : U16) : Statement (.rxReadExact deadline len) := by
  unfold Statement encode Instr.opcode
  ext k hk
  interval_cases k <;> simp

theorem decFloat32 (off : U16) : Statement (.decFloat32 off) := by
  unfold Statement encode Instr.opcode
  ext k hk
  interval_cases k <;> simp

theorem decReading : Statement .decReading := by
  unfold Statement
  decide

end Sys2Proof.Laws.OpcodeOfEncode
end

