-- ==== Sys2Proof/Tests/Slice0.lean ====
section
/-! SUPPORT. Tests. Expected values are those of spec/95_test_vectors.md (the vector's id stands in the
comment) and of the rules cited; then one witness per statement that has hypotheses. -/

namespace Sys2Proof.Tests

open Sys2Proof.Machine

/-- The state a step leaves, if it is a next state. -/
def after (o : Host.Outcome State Fault Refusal) : Option State :=
  match o with
  | .next t => some t
  | .fault _ => none
  | .refused _ => none

/-- The state after one command word. -/
def runWord (w : Nat) (s : State) : Option State := after (step (s.withFetchWord 64 w))

/-- The state after one transport answer. -/
def runAnswer (a : Answer) (s : State) : Option State := after (step { s with inbox := [.answer a] })

/-- The cells of a buffer holding `bs`. -/
def cells (bs : List Byte) : Memory := (List.range bs.length).zip bs

/-- A read of 29 bytes in progress, two bytes collected, deadline 3000 ms. -/
def busyState : State :=
  { State.reset with
    rxState := .busy, rxExpected := 29#16, rxCount := 2#16, rx := cells [0x01#8, 0x04#8]
    rxElapsed := 9#32, rxDeadline := 3000#32 }

/-- The same read with one byte missing and no deadline. -/
def lastByteState : State :=
  { State.reset with rxState := .busy, rxExpected := 3#16, rxCount := 2#16, rx := cells [0x01#8, 0x04#8] }

/-- After ENC-1: the frame of `enc.rdreq 1, 0, 12`. -/
def frameState : State :=
  { State.reset with
    tx := cells [0x01#8, 0x04#8, 0x00#8, 0x00#8, 0x00#8, 0x0C#8, 0xF0#8, 0x0F#8]
    txValid := true, respLen := some 29#16, crc := 0x0FF0#16 }

/-- The 29-byte response RD-1. -/
def rd1 : List Byte :=
  [0x01#8, 0x04#8, 0x18#8, 0x41#8, 0x48#8, 0x00#8, 0x00#8, 0x44#8, 0x79#8, 0x8C#8, 0xCD#8, 0x41#8,
   0xC8#8, 0x00#8, 0x00#8, 0x00#8, 0x00#8, 0x40#8, 0x70#8, 0x44#8, 0x9A#8, 0x50#8, 0x00#8, 0x00#8,
   0x00#8, 0x00#8, 0x00#8, 0x86#8, 0xEF#8]

/-- RD-1 collected. -/
def fullState : State :=
  { State.reset with rxState := .doneOk, rxExpected := 29#16, rxCount := 29#16, rx := cells rd1 }

/-- RD-1 collected and decoded, as DEC_READING and `dec.f32 15` leave it. -/
def decodedState : State :=
  { fullState with
    reading := some ⟨0x41480000#32, 0x44798CCD#32, 0x41C80000#32, 0x40700000#32, 0x449A5000#32, 0#32⟩
    readingOrder := some 0xD95#12, readingValid := true
    decValue := some 0x40700000#32, decOrder := .swapped, decValid := true }

/-! ## Well-formedness: an ill-formed word for each check of R68 -/

theorem smoke_reserved_opcode_zero : Word.wellFormed 0#64 = false := by decide
theorem smoke_reserved_opcode_high : Word.wellFormed 0x8000000000000000#64 = false := by decide
theorem smoke_formatN_reserved_bit : Word.wellFormed 0x1000000000000001#64 = false := by decide
theorem smoke_formatB_reserved_bit : Word.wellFormed 0x2000000000000100#64 = false := by decide
theorem smoke_formatC_reserved_bit : Word.wellFormed 0x3000000000010000#64 = false := by decide
theorem smoke_formatE_reserved_bit : Word.wellFormed 0x4000000100000000#64 = false := by decide
theorem smoke_formatR_reserved_bit : Word.wellFormed 0x5001000000000000#64 = false := by decide
theorem smoke_formatO_reserved_bit : Word.wellFormed 0x6000000000010000#64 = false := by decide
theorem smoke_legal_word : Word.wellFormed 0x5000FFFFFFFFFFFF#64 = true := by decide

/-! ## Decoding: words written out from the formats R61 to R66 -/

theorem test_decode_crcInit : decodeTableWord 64 0x1000000000000000 = some .crcInit := by decide
theorem test_decode_crcByte : decodeTableWord 64 0x20000000000000A5 = some (.crcByte 0xA5#8) := by decide
theorem test_decode_crcCompute :
    decodeTableWord 64 0x300000010000001D = some (.crcCompute .rx 29#16) := by decide
theorem test_decode_encReadReq :
    decodeTableWord 64 0x4000F7001234007D = some (.encReadReq 247#8 0x1234#16 125#16) := by decide
theorem test_decode_rxReadExact :
    decodeTableWord 64 0x500000000BB8001D = some (.rxReadExact 3000#32 29#16) := by decide
theorem test_decode_decFloat32 :
    decodeTableWord 64 0x600000000000FFFF = some (.decFloat32 0xFFFF#16) := by decide
theorem test_decode_decReading : decodeTableWord 64 0x7000000000000000 = some .decReading := by decide
theorem test_decode_illegal : decodeTableWord 64 0x3000000200000000 = none := by decide

/-! ## One step per command -/

-- CRC-C1
theorem test_crcInit : (runWord 0x1000000000000000 { State.reset with crc := 0x1234#16 }).map (·.crc) =
    some 0xFFFF#16 := by decide
-- CRC-C2
theorem test_crcByte : (runWord 0x2000000000000001 State.reset).map (·.crc) = some 0x807E#16 := by decide
-- CRC-C5
theorem test_crcCompute_tx : (runWord 0x3000000000000006 frameState).map (·.crc) = some 0x0FF0#16 := by
  decide +kernel
-- CRC-C8
theorem test_crcCompute_rx_busy :
    (runWord 0x3000000100000000 busyState).map (fun t => (t.err, t.crc)) = some (.busy, 0xFFFF#16) := by
  decide
-- ENC-7
theorem test_encReadReq : (runWord 0x4000F7001234007D State.reset).map (fun t => (t.tx, t.respLen)) =
    some (cells [0xF7#8, 0x04#8, 0x12#8, 0x34#8, 0x00#8, 0x7D#8, 0x60#8, 0x0B#8], some 255#16) := by
  decide +kernel
-- ENC-R7
theorem test_encReadReq_reject : (runWord 0x400000000000000C frameState).map (fun t => (t.tx, t.err)) =
    some (frameState.tx, .encReject) := by decide
-- RX-1
theorem test_rxReadExact : (runWord 0x500000000BB8001D fullState).map
    (fun t => (t.rx, pendingRequest t)) = some ([], some ⟨29, 1000⟩) := by decide
-- RX-14
theorem test_rxReadExact_zero : (runWord 0x5000000000000000 State.reset).map (·.rxState) =
    some .doneOk := by decide
-- program P2, `dec.f32 15`
theorem test_decFloat32 : (runWord 0x600000000000000F fullState).map
    (fun t => (t.decValue, t.decOrder)) = some (some 0x40700000#32, .swapped) := by decide
-- DEC-C3's bound, on RD-1: offset 26 needs byte 29
theorem test_decFloat32_range : (runWord 0x600000000000001A fullState).map
    (fun t => (t.err, t.decValid)) = some (.badRange, false) := by decide
-- RD-1
theorem test_decReading : (runWord 0x7000000000000000 fullState).map
    (fun t => (t.reading, t.readingOrder)) =
    some (decodedState.reading, some 0xD95#12) := by decide
-- RD-4
theorem test_decReading_busy : (runWord 0x7000000000000000 busyState).map (·.err) = some .busy := by
  decide

/-! ## The other agents -/

-- RX-4, RX-5: the timeout is capped by the time left, and the deadline ends the read
theorem test_answer_deadline : (runAnswer (.data [0x18#8] 2991#32) busyState).map
    (fun t => (t.rxState, t.shortReason, t.rxCount)) = some (.doneShort, .deadline, 3#16) := by decide
-- RX-7: completion before the deadline
theorem test_answer_completes : (runAnswer (.data [0x18#8] 50#32) { lastByteState with rxDeadline := 10#32 }).map
    (·.rxState) = some .doneOk := by decide
-- RX-13
theorem test_answer_overflow : (runAnswer (.data [0x18#8, 0x41#8] 3#32) lastByteState).map
    (fun t => (t.rxState, t.err, t.rxCount, t.rxElapsed)) =
    some (.doneFault, .chunkOverflow, 2#16, 3#32) := by decide
-- RX-18
theorem test_accumulator_saturates : satAdd 0xFFFFFFF0#32 0x20#32 = 0xFFFFFFFF#32 := by decide
-- RX-22
theorem test_reset_during_read : (after (step { busyState with inbox := [.reset] })) =
    some State.reset := by decide
-- section 7
theorem test_readPort_crcHighByte : readPort frameState 0x017#17 = .ok 0x0F#32 := by decide
theorem test_readPort_unwritten : readPort fullState 0x11D#17 = .err .readUnwritten := by decide
theorem test_readPort_badIndex : readPort fullState 0x200#17 = .err .badIndex := by decide
-- STATUS at the end of program P2, without its TX_VALID and ERR_STICKY bits
theorem test_status : statusWord decodedState = 0x00342#32 := by decide
-- DEC-8 and DEC-11
theorem test_resolve_swapped : resolve 0x4C#8 0xBE#8 0xBC#8 0x20#8 = (0xBC204CBE#32, .swapped) := by decide
theorem test_plausible_bounds :
    [0x322BCC77#32, 0x322BCC78#32, 0x4CBEBC1F#32, 0x4CBEBC20#32].map plausible =
      [false, true, true, false] := by decide
-- 12.5 widened: binary64 0x4029000000000000
theorem test_f32Value : f32Value 0x41480000#32 = 25 / 2 := by
  have h : f32Scaled 0x41480000#32 = 13107200 * 2 ^ 129 := by decide
  have hs : f32Sign 0x41480000#32 = false := by decide
  rw [f32Value, h, hs]
  norm_num
-- R70, R71
theorem test_asm_line : assembleText "rx.readexact 29, 3000" = some [0x500000000BB8001D#64] := by decide
theorem test_asm_pseudo : assembleText "crc.seq 0x31, 50" =
    some [0x1000000000000000#64, 0x2000000000000031#64, 0x2000000000000032#64] := by decide
theorem test_asm_refuses : assembleText "enc.rdreq 256, 0, 12" = none := by decide

/-! ## The states of this file meet the invariant -/

theorem inv_reset : State.reset.Inv where
  cfg := by decide
  tx := ⟨by decide, by decide, by decide⟩
  rx := ⟨by decide, by decide, by decide, by decide, by decide, by decide, by decide, by decide, by decide⟩
  dec := ⟨by decide, fun h => absurd h (by decide), by decide, fun h => absurd h (by decide)⟩
  err := ⟨by decide, by decide, by decide⟩

theorem inv_busyState : busyState.Inv where
  cfg := by decide
  tx := ⟨by decide, by decide, by decide⟩
  rx := ⟨by decide, by decide, by decide, by decide, by decide, by decide, by decide, by decide, by decide⟩
  dec := ⟨by decide, fun h => absurd h (by decide), by decide, fun h => absurd h (by decide)⟩
  err := ⟨by decide, by decide, by decide⟩

theorem inv_lastByteState : lastByteState.Inv where
  cfg := by decide
  tx := ⟨by decide, by decide, by decide⟩
  rx := ⟨by decide, by decide, by decide, by decide, by decide, by decide, by decide, by decide, by decide⟩
  dec := ⟨by decide, fun h => absurd h (by decide), by decide, fun h => absurd h (by decide)⟩
  err := ⟨by decide, by decide, by decide⟩

theorem inv_frameState : frameState.Inv where
  cfg := by decide
  tx := ⟨by decide, by decide, fun _ => ⟨1#8, 0#16, 12#16, by decide +kernel⟩⟩
  rx := ⟨by decide, by decide, by decide, by decide, by decide, by decide, by decide, by decide, by decide⟩
  dec := ⟨by decide, fun h => absurd h (by decide), by decide, fun h => absurd h (by decide)⟩
  err := ⟨by decide, by decide, by decide⟩

theorem inv_fullState : fullState.Inv where
  cfg := by decide
  tx := ⟨by decide, by decide, by decide⟩
  rx := ⟨by decide, by decide, by decide, by decide, by decide, by decide, by decide, by decide, by decide⟩
  dec := ⟨by decide, fun h => absurd h (by decide), by decide, fun h => absurd h (by decide)⟩
  err := ⟨by decide, by decide, by decide⟩

theorem inv_decodedState : decodedState.Inv where
  cfg := by decide
  tx := ⟨by decide, by decide, by decide⟩
  rx := ⟨by decide, by decide, by decide, by decide, by decide, by decide, by decide, by decide, by decide⟩
  dec := ⟨by decide, fun _ => ⟨by decide, 15, 0x40700000#32, by decide +kernel⟩, by decide,
    fun _ => ⟨by decide, by decide, ⟨0x41480000#32, 0x44798CCD#32, 0x41C80000#32, 0x40700000#32, 0x449A5000#32, 0#32⟩,
      0xD95#12, by decide +kernel⟩⟩
  err := ⟨by decide, by decide, by decide⟩

/-! ## Witnesses: for each statement with hypotheses, states and operands that meet them -/

theorem witness_decodeOfEncode : (Instr.encReadReq 255#8 0xFFFF#16 0#16).wellFormed = true := rfl

theorem witness_encodeOfDecode : decode 0x600000000000FFFF#64 = some (.decFloat32 0xFFFF#16) := by decide

/-- One word for each clause, its operand bits all 1 where it has any. -/
theorem witness_decodeFollowsOpcodeMap :
    ((0x1000000000000000#64).extractLsb 63 60 = 0x1#4 ∧ (0x1000000000000000#64).extractLsb 59 0 = 0#60) ∧
    ((0x20000000000000FF#64).extractLsb 63 60 = 0x2#4 ∧ (0x20000000000000FF#64).extractLsb 59 8 = 0#52) ∧
    ((0x300000010000FFFF#64).extractLsb 63 60 = 0x3#4 ∧ (0x300000010000FFFF#64).extractLsb 59 33 = 0#27 ∧
      (0x300000010000FFFF#64).extractLsb 31 16 = 0#16) ∧
    ((0x4000FF00FFFFFFFF#64).extractLsb 63 60 = 0x4#4 ∧ (0x4000FF00FFFFFFFF#64).extractLsb 59 48 = 0#12 ∧
      (0x4000FF00FFFFFFFF#64).extractLsb 39 32 = 0#8) ∧
    ((0x5000FFFFFFFFFFFF#64).extractLsb 63 60 = 0x5#4 ∧ (0x5000FFFFFFFFFFFF#64).extractLsb 59 48 = 0#12) ∧
    ((0x600000000000FFFF#64).extractLsb 63 60 = 0x6#4 ∧ (0x600000000000FFFF#64).extractLsb 59 16 = 0#44) ∧
    ((0x7000000000000000#64).extractLsb 63 60 = 0x7#4 ∧ (0x7000000000000000#64).extractLsb 59 0 = 0#60) ∧
    ReservedWord 0x7FFFFFFFFFFFFFFF#64 := by
  unfold ReservedWord
  decide

/-- One word for each disjunct of ReservedWord, the lowest reserved bit set, and one that meets none. -/
theorem witness_reservedWordsAreRejected :
    ReservedWord 0x0000000000000000#64 ∧ ReservedWord 0x8000000000000000#64 ∧
    ReservedWord 0x1000000000000001#64 ∧ ReservedWord 0x2000000000000100#64 ∧
    ReservedWord 0x3000000200000000#64 ∧ ReservedWord 0x3000000000010000#64 ∧
    ReservedWord 0x4001000000000000#64 ∧ ReservedWord 0x4000000100000000#64 ∧
    ReservedWord 0x5001000000000000#64 ∧ ReservedWord 0x6000000000010000#64 ∧
    ReservedWord 0x7000000000000001#64 ∧
    ¬ ReservedWord 0x300000010000FFFF#64 := by
  refine ⟨?_, ?_, ?_, ?_, ?_, ?_, ?_, ?_, ?_, ?_, ?_, ?_⟩ <;> (unfold ReservedWord; decide)

theorem witness_stepRunsDecodedCommand :
    decode 0x1000000000000000#64 = some .crcInit ∧
    { busyState with inbox := [.command 0x1000000000000000#64] }.inbox =
      .command 0x1000000000000000#64 :: [] := by decide

theorem witness_stepPerformsOtherAgents :
    { busyState with inbox := [.answer (.notReady 0#32)] }.inbox = .answer (.notReady 0#32) :: [] ∧
    { busyState with inbox := [.answerAbandoned (.notReady 0#32)] }.inbox =
      .answerAbandoned (.notReady 0#32) :: [] ∧
    { busyState with inbox := [.readPort 0#17] }.inbox = .readPort 0#17 :: [] := by decide

theorem witness_noEventNoStep :
    (busyState.inbox = [] ∧ busyState.rxState = .busy) ∧
    (State.reset.inbox = [] ∧ State.reset.rxState ≠ .busy) := by decide

/-- CRC_INIT and CRC_BYTE have illegal words to reject. -/
theorem witness_crcWords :
    ((0x1000000000000001#64).extractLsb 63 60 = 0x1#4 ∧ (0x1000000000000001#64).extractLsb 59 0 ≠ 0#60) ∧
    ((0x2000000000000100#64).extractLsb 63 60 = 0x2#4 ∧ (0x2000000000000100#64).extractLsb 59 8 ≠ 0#52) := by
  decide

/-- Each clause at its boundary: `len` just beyond, and at, the bytes that have a value. -/
theorem witness_crcComputeCoversTheBuffer :
    (0x3000000000010000#64).extractLsb 63 60 = 0x3#4 ∧ (0x3000000000010000#64).extractLsb 31 16 ≠ 0#16 ∧
    busyState.rxState = .busy ∧
    (if frameState.txValid then 8 else 0) < (9#16).toNat ∧
    (fullState.rxState ≠ .busy ∧ fullState.rxCount.toNat < (30#16).toNat) ∧
    (frameState.Inv ∧ (8#16).toNat ≤ (if frameState.txValid then 8 else 0)) ∧
    (fullState.Inv ∧ fullState.rxState ≠ .busy ∧ (29#16).toNat ≤ fullState.rxCount.toNat) :=
  ⟨by decide, by decide, by decide, by decide, by decide, ⟨inv_frameState, by decide⟩,
    inv_fullState, by decide, by decide⟩

theorem witness_streamedBytesGiveTheirCrc :
    { busyState with inbox := [.command (encode .crcInit), .command (encode (.crcByte 0x31#8))] }.inbox =
      .command (encode .crcInit) :: [0x31#8].map (fun b => .command (encode (.crcByte b))) ++ [] := rfl

/-- Both causes of ENC_REJECT, the second just beyond the limit, and the largest accepted count. -/
theorem witness_encReadReqBuildsTheFrame :
    ((0x4000000100000000#64).extractLsb 63 60 = 0x4#4 ∧ (0x4000000100000000#64).extractLsb 39 32 ≠ 0#8) ∧
    State.reset.cfg.rxBufBytes < 5 + 2 * (126#16).toNat ∧
    (State.reset.cfg.wf ∧ 255#8 ≠ 0#8 ∧ 5 + 2 * (125#16).toNat ≤ State.reset.cfg.rxBufBytes) := by decide

theorem witness_frameOnTheReadPort :
    State.reset.cfg.wf ∧ 247#8 ≠ 0#8 ∧ 5 + 2 * (125#16).toNat ≤ State.reset.cfg.rxBufBytes ∧
    ∃ t, exec (.encReadReq 247#8 0x1234#16 125#16) State.reset = .next t :=
  ⟨by decide, by decide, by decide, _, rfl⟩

theorem witness_frameDependsOnOperandsOnly :
    1#8 ≠ 0#8 ∧ 5 + 2 * (12#16).toNat ≤ State.reset.cfg.rxBufBytes ∧
    5 + 2 * (12#16).toNat ≤ busyState.cfg.rxBufBytes := by decide

theorem witness_heldFrameChecks : frameState.Inv ∧ frameState.txValid = true := ⟨inv_frameState, rfl⟩

/-- Each clause of R90: BUSY, one byte too long, the whole buffer, and length 0. -/
theorem witness_rxReadExactStartsTheRead :
    ((0x5001000000000000#64).extractLsb 63 60 = 0x5#4 ∧ (0x5001000000000000#64).extractLsb 59 48 ≠ 0#12) ∧
    busyState.rxState = .busy ∧
    (State.reset.rxState ≠ .busy ∧ State.reset.cfg.rxBufBytes < (257#16).toNat) ∧
    (State.reset.rxState ≠ .busy ∧ (256#16).toNat ≤ State.reset.cfg.rxBufBytes) ∧
    (fullState.rxState ≠ .busy ∧ (0#16).toNat ≤ fullState.cfg.rxBufBytes) := by decide

theorem witness_pendingRequestWhileBusy :
    (fullState.Inv ∧ fullState.rxState ≠ .busy) ∧
    (busyState.Inv ∧ busyState.rxState = .busy ∧ busyState.rxDeadline ≠ 0#32) ∧
    (lastByteState.Inv ∧ lastByteState.rxState = .busy ∧ lastByteState.rxDeadline = 0#32) :=
  ⟨⟨inv_fullState, by decide⟩, ⟨inv_busyState, by decide⟩, inv_lastByteState, by decide⟩

theorem witness_transportFailureEndsTheRead :
    busyState.rxState = .busy ∧
    { busyState with inbox := [.answer (.notReady 0#32)] }.inbox = .answer (.notReady 0#32) :: [] ∧
    { busyState with inbox := [.answer (.ioError 4#32)] }.inbox = .answer (.ioError 4#32) :: [] := by decide

theorem witness_quietTransportEndsTheReadShort :
    busyState.rxState = .busy ∧
    { busyState with inbox := [.answer (.endOfStream 0#32)] }.inbox = .answer (.endOfStream 0#32) :: [] ∧
    { busyState with inbox := [.answer (.data [] 1000#32)] }.inbox = .answer (.data [] 1000#32) :: [] := by
  decide

/-- One byte missing, two answered. -/
theorem witness_chunkOverflowFaults :
    lastByteState.rxState = .busy ∧
    lastByteState.rxExpected.toNat - lastByteState.rxCount.toNat < [0x02#8, 0x00#8].length ∧
    { lastByteState with inbox := [.answer (.data [0x02#8, 0x00#8] 3#32)] }.inbox =
      .answer (.data [0x02#8, 0x00#8] 3#32) :: [] := by decide

/-- The three ends of a collecting step: full; not full and out of time; not full with time left. -/
theorem witness_dataAnswerAppendsItsBytes :
    (lastByteState.rxState = .busy ∧ 1 ≤ [0x02#8].length ∧
      [0x02#8].length ≤ lastByteState.rxExpected.toNat - lastByteState.rxCount.toNat ∧
      (runAnswer (.data [0x02#8] 3#32) lastByteState).map (fun t => decide (t.rxCount = 3#16)) = some true) ∧
    (busyState.rxState = .busy ∧ busyState.rxDeadline ≠ 0#32 ∧
      (runAnswer (.data [0x18#8] 2991#32) busyState).map
        (fun t => decide (t.rxCount ≠ 29#16 ∧ 3000 ≤ t.rxElapsed.toNat)) = some true) ∧
    (runAnswer (.data [0x18#8] 2990#32) busyState).map
      (fun t => decide (t.rxCount ≠ 29#16 ∧ t.rxElapsed.toNat < 3000)) = some true := by decide

theorem witness_accumulatorSaturates :
    busyState.rxState = .busy ∧
    { busyState with inbox := [.answer (.data [0x18#8] 0xFFFFFFFF#32)] }.inbox =
      .answer (.data [0x18#8] 0xFFFFFFFF#32) :: [] := by decide

theorem witness_everyReadEnds :
    lastByteState.Inv ∧ lastByteState.rxState = .busy ∧
    { lastByteState with inbox := [.answer (.data [0x02#8] 0#32)] }.inbox =
      [Answer.data [0x02#8] 0#32].map Event.answer ++ [] ∧
    [Answer.data [0x02#8] 0#32].length = lastByteState.rxExpected.toNat - lastByteState.rxCount.toNat :=
  ⟨inv_lastByteState, by decide, rfl, by decide⟩

theorem witness_chunkingDoesNotMatter :
    lastByteState.Inv ∧ lastByteState.rxState = .busy ∧ lastByteState.rxDeadline = 0#32 ∧
    (∀ c ∈ [([0x02#8], 7#32)], c.1 ≠ []) ∧
    ([([0x02#8], 7#32)].map (·.1)).flatten.length =
      lastByteState.rxExpected.toNat - lastByteState.rxCount.toNat ∧
    { lastByteState with inbox := [.answer (.data [0x02#8] 7#32)] }.inbox =
      [([0x02#8], 7#32)].map (fun c => Event.answer (.data c.1 c.2)) ++ [] :=
  ⟨inv_lastByteState, by decide, by decide, by decide, by decide, rfl⟩

/-- The call takes all the time it was given. -/
theorem witness_honestTransportMeetsDeadline :
    busyState.Inv ∧ busyState.rxDeadline ≠ 0#32 ∧ pendingRequest busyState = some ⟨27, 1000⟩ ∧
    honours ⟨27, 1000⟩ (.data [0x18#8] 1000#32) = true :=
  ⟨inv_busyState, by decide, by decide, by decide⟩

theorem witness_lateAnswersHaveNoEffect :
    fullState.rxState ≠ .busy ∧
    { fullState with inbox := [.answer (.data rd1 5#32)] }.inbox = .answer (.data rd1 5#32) :: [] ∧
    { busyState with inbox := [.reset, .answer (.data rd1 5#32)] }.inbox =
      .reset :: .answer (.data rd1 5#32) :: [] := by decide

theorem witness_commandsLeaveABusyReadAlone : busyState.Inv ∧ busyState.rxState = .busy :=
  ⟨inv_busyState, rfl⟩

/-- The first offset out of range, and the last one in range. -/
theorem witness_decFloat32DecodesTheField :
    ((0x6000000000010000#64).extractLsb 63 60 = 0x6#4 ∧ (0x6000000000010000#64).extractLsb 59 16 ≠ 0#44) ∧
    busyState.rxState = .busy ∧
    (fullState.rxState ≠ .busy ∧ fullState.rxCount.toNat < (26#16).toNat + 4) ∧
    (fullState.Inv ∧ fullState.rxState ≠ .busy ∧ (25#16).toNat + 4 ≤ fullState.rxCount.toNat) :=
  ⟨by decide, by decide, by decide, inv_fullState, by decide⟩

theorem witness_decReadingDecodesSixFields :
    ((0x7000000000000001#64).extractLsb 63 60 = 0x7#4 ∧ (0x7000000000000001#64).extractLsb 59 0 ≠ 0#60) ∧
    busyState.rxState = .busy ∧
    (State.reset.rxState ≠ .busy ∧ State.reset.rxState ≠ .doneOk) ∧
    (let s := { fullState with rxExpected := 25#16 }
     s.rxState ≠ .busy ∧ s.rxExpected.toNat ≠ 29) ∧
    (fullState.Inv ∧ fullState.rxState = .doneOk ∧ fullState.rxExpected.toNat = 29) :=
  ⟨by decide, by decide, by decide, by decide, inv_fullState, by decide⟩

/-- The three branches of R107: DEC-1, DEC-2, DEC-3. -/
theorem witness_resolvePrefersNaturalOrder :
    plausible 0x41480000#32 = true ∧
    (plausible 0x00004148#32 = false ∧ plausible 0x41480000#32 = true) ∧
    (plausible 0x00000000#32 = false ∧ plausible 0x00000000#32 = false) := by decide

theorem witness_swappedDeviceIsRecovered :
    plausible 0x41480000#32 = true ∧
    plausible (((0x41480000#32).extractLsb 15 0 : U16) ++ ((0x41480000#32).extractLsb 31 16 : U16)) = false := by
  decide

/-- A subnormal, an infinity and a NaN. -/
theorem witness_wideningIsExact :
    f32IsFinite 0x00007FC0#32 = true ∧ f32IsNaN 0x00007FC0#32 = false ∧
    f32IsInfinite 0xFF800000#32 = true ∧ f32IsNaN 0x7FC00000#32 = true := by decide

/-- Two frames that agree on slot 0 and differ elsewhere. -/
theorem witness_fieldsResolveIndependently :
    fullState.Inv ∧ decodedState.Inv ∧ fullState.rxState = .doneOk ∧ decodedState.rxState = .doneOk ∧
    fullState.rxExpected.toNat = 29 ∧ decodedState.rxExpected.toNat = 29 ∧ 0 < 6 ∧
    ∀ j < 4, memGet fullState.rx (3 + 4 * 0 + j) = memGet decodedState.rx (3 + 4 * 0 + j) :=
  ⟨inv_fullState, inv_decodedState, by decide, by decide, by decide, by decide, by decide, by decide⟩

/-- The smallest and the largest admitted buffer. -/
theorem witness_resetMeetsTheInvariant :
    Config.wf { rxBufBytes := 29, perCallTimeoutMs := 1000 } ∧
    Config.wf { rxBufBytes := 65535, perCallTimeoutMs := 1000 } := by decide

theorem witness_stepKeepsTheInvariant :
    busyState.Inv ∧ ∃ t, exec .crcInit busyState = .next t := ⟨inv_busyState, _, rfl⟩

theorem witness_noCommandEverStops : decodedState.Inv ∧ [Event.reset] ≠ [] :=
  ⟨inv_decodedState, by decide⟩

/-- A rejected and a done command, each a next state. -/
theorem witness_rejectionChangesOnlyErr :
    (runWord 0 busyState).map (·.err) = some .illegalCommand ∧
    (runWord 0x1000000000000000 busyState).map (·.err) = some .none := by decide

theorem witness_errStickyOnlyResetClears :
    (let s := { busyState with errSticky := true, inbox := [.command 0x1000000000000000#64] }
     s.inbox.head? ≠ some .reset ∧ (after (step s)).map (·.errSticky) = some true) ∧
    (let s := { busyState with errSticky := true, inbox := [.reset] }
     s.inbox.head? = some .reset ∧ (after (step s)).map (·.errSticky) = some false) ∧
    (runWord 0 busyState).map (fun t => decide (t.err ≠ busyState.err ∧ t.err ≠ .none)) = some true := by
  decide

/-- Each flag set once and cleared once. -/
theorem witness_validFlagsHaveTheirWriters :
    (State.reset.txValid = false ∧
      (runWord 0x400001000000000C State.reset).map (·.txValid) = some true) ∧
    (frameState.txValid = true ∧
      (after (step { frameState with inbox := [.reset] })).map (·.txValid) = some false) ∧
    (fullState.decValid = false ∧ (runWord 0x6000000000000003 fullState).map (·.decValid) = some true) ∧
    (decodedState.decValid = true ∧
      (runWord 0x5000000000000007 decodedState).map (·.decValid) = some false) ∧
    (fullState.readingValid = false ∧
      (runWord 0x7000000000000000 fullState).map (·.readingValid) = some true) ∧
    (decodedState.readingValid = true ∧
      (runWord 0x5000000000000007 decodedState).map (·.readingValid) = some false) := by decide

/-- For each line of the "written by" column, a step that changes the element. -/
theorem witness_elementsHaveTheirWriters :
    (runWord 0x2000000000000001 State.reset).map (fun t => decide (t.crc ≠ State.reset.crc)) = some true ∧
    (runWord 0x400001000000000C State.reset).map (fun t => decide (t.tx ≠ State.reset.tx)) = some true ∧
    (runAnswer (.data [0x18#8] 1#32) busyState).map (fun t => decide (t.rx ≠ busyState.rx)) = some true ∧
    (runWord 0x5000000000000007 State.reset).map
      (fun t => decide (t.rxExpected ≠ State.reset.rxExpected)) = some true ∧
    (runWord 0x6000000000000003 fullState).map
      (fun t => decide (t.decValue ≠ fullState.decValue)) = some true ∧
    (runWord 0x7000000000000000 fullState).map
      (fun t => decide (t.reading ≠ fullState.reading)) = some true ∧
    (runWord 0 State.reset).map (fun t => (t.err, t.errSticky)) = some (.illegalCommand, true) ∧
    (runAnswer (.data [1#8, 2#8] 1#32) lastByteState).map
      (fun t => (t.err, t.rxState)) = some (.chunkOverflow, .doneFault) := by decide

/-- An illegal word; a command with two causes (BUSY and RX_REJECT); a step that reports BUSY. -/
theorem witness_firstCauseIsReported :
    decode 0x5004000000000005#64 = none ∧ busyState.rxState = .busy ∧
    busyState.cfg.rxBufBytes < (300#16).toNat ∧
    (after (exec (.rxReadExact 0#32 300#16) busyState)).map (·.err) = some .busy := by decide

/-- A state with every valid flag clear, one with each set, and the indices at the ranges' ends. -/
theorem witness_readPortFollowsTheIndexMap :
    (State.reset.Inv ∧ State.reset.txValid = false ∧ State.reset.decValid = false ∧
      State.reset.readingValid = false ∧ State.reset.rxCount.toNat ≤ 255 ∧ 255 < State.reset.cfg.rxBufBytes ∧
      0x100 + State.reset.cfg.rxBufBytes ≤ 0x1FFFF) ∧
    (frameState.Inv ∧ frameState.txValid = true) ∧
    (decodedState.Inv ∧ decodedState.decValid = true ∧ decodedState.readingValid = true ∧
      28 < decodedState.rxCount.toNat) :=
  ⟨⟨inv_reset, by decide⟩, ⟨inv_frameState, by decide⟩, inv_decodedState, by decide⟩

theorem witness_readsHaveNoSideEffect :
    { fullState with inbox := [.readPort 0x100#17, .readPort 0x100#17] }.inbox =
      .readPort 0x100#17 :: .readPort 0x100#17 :: [] := rfl

theorem witness_resetSetsEveryElement :
    { decodedState with inbox := [.reset] }.inbox = .reset :: [] := rfl

theorem witness_readrespReadsTheRequestedLength :
    State.reset.cfg.wf ∧ ∃ t, exec (.encReadReq 1#8 0#16 12#16) State.reset = .next t ∧ t.err = .none :=
  ⟨by decide, _, rfl, rfl⟩

end Sys2Proof.Tests
end

section
/-! SUPPORT. The step as the agents' own operations, and that no command stops in a state that meets the
invariant (spec/00_scope.md R7, R17; spec/20_memory.md R53). -/

namespace Sys2Proof.Machine

/-! ## The event in front of the inbox -/

/-- A step takes the first event off the inbox and performs it (R53). -/
theorem step_of_inbox_cons {s : State} {e : Event} {rest : List Event} (h : s.inbox = e :: rest) :
    step s = perform e { s with inbox := rest } := by
  simp [step, nextEvent, h]

/-- The read port shows the block alone: the events still to come do not reach it (R51). -/
@[simp] theorem readPort_with_inbox (s : State) (es : List Event) (idx : Index) :
    readPort { s with inbox := es } idx = readPort s idx := rfl

/-- Settles O7: each clause is the event's arm of `perform`. -/
theorem stepPerformsOtherAgents : Obligations.StepPerformsOtherAgents := by
  intro s rest
  refine ⟨fun a h => ?_, fun a h => ?_, fun idx h => ?_⟩
  · rw [step_of_inbox_cons h, perform]
  · rw [step_of_inbox_cons h, perform, respondAbandoned]
  · rw [step_of_inbox_cons h, perform, recordRead, readPort_with_inbox]

/-! ## The invariant does not speak of the inbox -/

theorem State.Inv.with_inbox {s : State} (h : s.Inv) (es : List Event) :
    State.Inv { s with inbox := es } where
  cfg := h.cfg
  tx := ⟨h.tx.cells, h.tx.noLength, h.tx.frame⟩
  rx := ⟨h.rx.cells, h.rx.countLe, h.rx.expectedLe, h.rx.idle, h.rx.busyMissing, h.rx.busyTime,
    h.rx.okFull, h.rx.partialRead, h.rx.shortReason⟩
  dec := ⟨h.dec.noValue, h.dec.value, h.dec.noReading, h.dec.readingFrame⟩
  err := ⟨h.err.code, h.err.sticky, h.err.faulted⟩

/-! ## Every command completes (R17, R120) -/

/-- The source of CRC_COMPUTE holds exactly the bytes R83 calls available. -/
theorem State.Inv.bufferOf_holdsFirst {s : State} (h : s.Inv) (src : BufSrc) :
    (bufferOf src s).holdsFirst (availBytes src s) := by
  cases src with
  | tx => exact h.tx.cells
  | rx => exact h.rx.cells

theorem execCrcCompute_next {s : State} (h : s.Inv) (src : BufSrc) (len : U16) :
    ∃ t, execCrcCompute src len s = .next t := by
  unfold execCrcCompute
  split
  · exact ⟨_, rfl⟩
  · split
    · exact ⟨_, rfl⟩
    · have hread := memRead_of_holdsFirst (h.bufferOf_holdsFirst src) (a := 0) (k := len.toNat) (by omega)
      rw [hread]
      exact ⟨_, rfl⟩

theorem execEncReadReq_next (dev : Byte) (start count : U16) (s : State) :
    ∃ t, execEncReadReq dev start count s = .next t := by
  unfold execEncReadReq
  split
  · exact ⟨_, rfl⟩
  · split <;> exact ⟨_, rfl⟩

theorem execRxReadExact_next (deadline : U32) (len : U16) (s : State) :
    ∃ t, execRxReadExact deadline len s = .next t := by
  unfold execRxReadExact
  split
  · exact ⟨_, rfl⟩
  · split <;> exact ⟨_, rfl⟩

theorem execDecFloat32_next {s : State} (h : s.Inv) (off : U16) :
    ∃ t, execDecFloat32 off s = .next t := by
  unfold execDecFloat32
  split
  · exact ⟨_, rfl⟩
  · split
    · exact ⟨_, rfl⟩
    · obtain ⟨_, _, _, _, -, hfield⟩ :=
        decodeField_of_holdsFirst h.rx.cells (off := off.toNat) (by omega)
      rw [hfield]
      exact ⟨_, rfl⟩

/-- A complete read of `READING_RESP_LEN` bytes holds every byte of the six fields. -/
theorem State.Inv.decodeFields_eq_some {s : State} (h : s.Inv) (hok : s.rxState = .doneOk)
    (hlen : s.rxExpected.toNat = readingRespLen) :
    ∃ r orders, decodeFields s.rx = some (r, orders) := by
  have hcount : s.rxCount.toNat = 29 := by rw [h.rx.okFull hok, hlen, readingRespLen]
  exact decodeFields_of_holdsFirst h.rx.cells (by omega)

theorem execDecReading_next {s : State} (h : s.Inv) : ∃ t, execDecReading s = .next t := by
  unfold execDecReading
  split
  · exact ⟨_, rfl⟩
  · split
    · exact ⟨_, rfl⟩
    · rename_i hframe
      rw [not_or, not_not, not_not] at hframe
      obtain ⟨r, orders, hfields⟩ := h.decodeFields_eq_some hframe.1 hframe.2
      rw [hfields]
      exact ⟨_, rfl⟩

theorem exec_next {s : State} (h : s.Inv) (i : Instr) : ∃ t, exec i s = .next t := by
  cases i with
  | crcInit => exact ⟨_, rfl⟩
  | crcByte b => exact ⟨_, rfl⟩
  | crcCompute src len => exact execCrcCompute_next h src len
  | encReadReq dev start count => exact execEncReadReq_next dev start count s
  | rxReadExact deadline len => exact execRxReadExact_next deadline len s
  | decFloat32 off => exact execDecFloat32_next h off
  | decReading => exact execDecReading_next h

theorem issue_next {s : State} (h : s.Inv) (w : Word) : ∃ t, issue w s = .next t := by
  unfold issue
  split
  · exact exec_next h _
  · exact ⟨_, rfl⟩

theorem perform_next {s : State} (h : s.Inv) (e : Event) : ∃ t, perform e s = .next t := by
  cases e with
  | command w => exact issue_next h w
  | answer a => exact ⟨_, rfl⟩
  | answerAbandoned a => exact ⟨_, rfl⟩
  | readPort idx => exact ⟨_, rfl⟩
  | reset => exact ⟨_, rfl⟩

/-- Settles O41: the invariant fills every byte a command reads after its own check passed, so no command
reaches `bufferHole`. -/
theorem noCommandEverStops : Obligations.NoCommandEverStops := by
  refine ⟨fun i s h => exec_next h i, fun s h hne => ?_⟩
  obtain ⟨e, rest, hinbox⟩ := List.exists_cons_of_ne_nil hne
  rw [step_of_inbox_cons hinbox]
  exact perform_next (h.with_inbox rest) e

end Sys2Proof.Machine
end

section
/-! SUPPORT. Magnitude order is pattern order (spec/93_implementation_defined.md G8): the value of a finite
binary32 datum grows with its magnitude bits, so the real interval of R12 is an integer band (R106). -/

namespace Sys2Proof.Machine

/-! ## The fields of a pattern, from its magnitude bits -/

theorem f32Abs_toNat (u : U32) : (f32Abs u).toNat = u.toNat % 2 ^ 31 := by
  rw [f32Abs, BitVec.toNat_and]
  exact Nat.and_two_pow_sub_one_eq_mod u.toNat 31

theorem f32Exponent_toNat (u : U32) : (f32Exponent u).toNat = (f32Abs u).toNat / 2 ^ 23 := by
  simp only [f32Abs_toNat, f32Exponent, BitVec.extractLsb_toNat, Nat.shiftRight_eq_div_pow]
  omega

theorem f32Fraction_toNat (u : U32) : (f32Fraction u).toNat = (f32Abs u).toNat % 2 ^ 23 := by
  simp only [f32Abs_toNat, f32Fraction, BitVec.extractLsb_toNat, Nat.shiftRight_eq_div_pow]
  omega

/-- A datum is finite when its magnitude is below that of infinity, 0x7F800000. -/
theorem f32IsFinite_iff (u : U32) : f32IsFinite u = true ↔ (f32Abs u).toNat < 0x7F800000 := by
  have hexp := f32Exponent_toNat u
  have habs := f32Abs_toNat u
  rw [f32IsFinite, bne_iff_ne, ne_eq, ← BitVec.toNat_inj, hexp, BitVec.toNat_ofNat]
  omega

/-! ## The scaled value grows with the magnitude bits -/

/-- `f32Scaled` as a function of the magnitude bits, read as a number. -/
def magnitudeScaled (m : Nat) : Nat :=
  if m / 2 ^ 23 = 0 then m else (2 ^ 23 + m % 2 ^ 23) * 2 ^ (m / 2 ^ 23 - 1)

theorem f32Scaled_eq (u : U32) : f32Scaled u = magnitudeScaled (f32Abs u).toNat := by
  have hexp := f32Exponent_toNat u
  have hfrac := f32Fraction_toNat u
  unfold f32Scaled magnitudeScaled
  by_cases hzero : (f32Exponent u).toNat = 0
  · rw [if_pos (BitVec.eq_of_toNat_eq hzero), if_pos (by omega), hfrac]
    omega
  · rw [if_neg (fun h => hzero (by rw [h]; rfl)), if_neg (by omega), hfrac, hexp]

/-- In the binade of exponent `k + 1` the significand counts in steps of `2 ^ k`. -/
theorem magnitudeScaled_binade (k : Nat) {f : Nat} (hf : f < 2 ^ 23) :
    magnitudeScaled ((k + 1) * 2 ^ 23 + f) = (2 ^ 23 + f) * 2 ^ k := by
  rw [magnitudeScaled, show ((k + 1) * 2 ^ 23 + f) / 2 ^ 23 = k + 1 by omega,
    show ((k + 1) * 2 ^ 23 + f) % 2 ^ 23 = f by omega, if_neg (by omega), Nat.add_sub_cancel]

theorem magnitudeScaled_subnormal {m : Nat} (hm : m < 2 ^ 23) : magnitudeScaled m = m :=
  if_pos (by omega)

/-- The significand of the next pattern is one larger, or the next binade begins, at twice the `2 ^ 23`. -/
theorem magnitudeScaled_le_succ (m : Nat) : magnitudeScaled m ≤ magnitudeScaled (m + 1) := by
  by_cases hsub : m < 2 ^ 23
  · rw [magnitudeScaled_subnormal hsub]
    by_cases hlast : m + 1 < 2 ^ 23
    · rw [magnitudeScaled_subnormal hlast]
      omega
    · rw [show m + 1 = (0 + 1) * 2 ^ 23 + 0 by omega, magnitudeScaled_binade 0 (by omega)]
      omega
  · obtain ⟨k, f, hf, rfl⟩ : ∃ k f, f < 2 ^ 23 ∧ m = (k + 1) * 2 ^ 23 + f :=
      ⟨m / 2 ^ 23 - 1, m % 2 ^ 23, by omega, by omega⟩
    rw [magnitudeScaled_binade k hf]
    by_cases hlast : f + 1 < 2 ^ 23
    · rw [Nat.add_assoc, magnitudeScaled_binade k hlast]
      exact Nat.mul_le_mul_right _ (by omega)
    · rw [show (k + 1) * 2 ^ 23 + f + 1 = (k + 1 + 1) * 2 ^ 23 + 0 by omega,
        magnitudeScaled_binade (k + 1) (by omega)]
      calc (2 ^ 23 + f) * 2 ^ k ≤ (2 ^ 23 + 2 ^ 23) * 2 ^ k := Nat.mul_le_mul_right _ (by omega)
        _ = (2 ^ 23 + 0) * 2 ^ (k + 1) := by ring

theorem magnitudeScaled_mono : Monotone magnitudeScaled :=
  monotone_nat_of_le_succ magnitudeScaled_le_succ

/-! ## The two bounds (R12), each between two neighbouring patterns -/

theorem lt_magnitudeScaled_iff (m : Nat) :
    2 ^ 149 < magnitudeScaled m * 10 ^ 8 ↔ 0x322BCC78 ≤ m := by
  constructor
  · contrapose!
    intro hm
    calc magnitudeScaled m * 10 ^ 8
        ≤ magnitudeScaled 0x322BCC77 * 10 ^ 8 :=
          Nat.mul_le_mul_right _ (magnitudeScaled_mono (by omega))
      _ ≤ 2 ^ 149 := by decide
  · intro hm
    calc 2 ^ 149 < magnitudeScaled 0x322BCC78 * 10 ^ 8 := by decide
      _ ≤ magnitudeScaled m * 10 ^ 8 := Nat.mul_le_mul_right _ (magnitudeScaled_mono hm)

theorem magnitudeScaled_lt_iff (m : Nat) :
    magnitudeScaled m < 10 ^ 8 * 2 ^ 149 ↔ m ≤ 0x4CBEBC1F := by
  constructor
  · contrapose!
    intro hm
    calc 10 ^ 8 * 2 ^ 149 ≤ magnitudeScaled 0x4CBEBC20 := by decide
      _ ≤ magnitudeScaled m := magnitudeScaled_mono hm
  · intro hm
    calc magnitudeScaled m ≤ magnitudeScaled 0x4CBEBC1F := magnitudeScaled_mono hm
      _ < 10 ^ 8 * 2 ^ 149 := by decide

/-! ## The real value -/

theorem abs_f32Value (u : U32) : |f32Value u| = (f32Scaled u : Rat) / 2 ^ 149 := by
  have hnonneg : (0 : Rat) ≤ (f32Scaled u : Rat) / 2 ^ 149 := by positivity
  rw [f32Value, mul_div_assoc]
  cases f32Sign u <;> simp [abs_of_nonneg hnonneg]

theorem lt_abs_f32Value_iff (u : U32) :
    1 / 10 ^ 8 < |f32Value u| ↔ 0x322BCC78 ≤ (f32Abs u).toNat := by
  rw [abs_f32Value, f32Scaled_eq, ← lt_magnitudeScaled_iff,
    div_lt_div_iff₀ (by positivity) (by positivity), one_mul]
  norm_cast

theorem abs_f32Value_lt_iff (u : U32) :
    |f32Value u| < 10 ^ 8 ↔ (f32Abs u).toNat ≤ 0x4CBEBC1F := by
  rw [abs_f32Value, f32Scaled_eq, ← magnitudeScaled_lt_iff, div_lt_iff₀ (by positivity)]
  norm_cast

theorem plausible_iff (u : U32) : plausible u = true ↔
    0x322BCC78 ≤ (f32Abs u).toNat ∧ (f32Abs u).toNat ≤ 0x4CBEBC1F := by
  simp [plausible, BitVec.ule, plausibleLo, plausibleHi]

/-- Settles O34: each bound on the real value is a bound on the magnitude bits, the upper one makes the
datum finite, and the lower one makes it non-zero. -/
theorem plausibleIsTheRealInterval : Obligations.PlausibleIsTheRealInterval := by
  intro u
  refine ⟨plausible_iff u, ?_⟩
  rw [plausible_iff, f32IsFinite_iff, lt_abs_f32Value_iff, abs_f32Value_lt_iff]
  constructor
  · rintro ⟨hlo, hhi⟩
    have hpos : 0 < |f32Value u| := lt_trans (by positivity) ((lt_abs_f32Value_iff u).2 hlo)
    exact ⟨by omega, abs_pos.1 hpos, hlo, hhi⟩
  · rintro ⟨-, -, hlo, hhi⟩
    exact ⟨hlo, hhi⟩

end Sys2Proof.Machine
end

section
/-! SUPPORT. What one performed event does to the state, said once: a rejection, a done command, or the
operation of another agent (spec/60_exceptions.md R117; spec/20_memory.md R53). -/

namespace Sys2Proof.Machine

/-- The codes a command word can leave in `ERR`: never 0, and never the two that "are returned with the read
and never written to `ERR`" (R115). -/
def ErrCode.IsRejection (c : ErrCode) : Prop := c ≠ .none ∧ c ≠ .readUnwritten ∧ c ≠ .badIndex

theorem illegalCommand_isRejection : ErrCode.illegalCommand.IsRejection := ⟨nofun, nofun, nofun⟩

theorem isRejection_of_possibleErrors {i : Instr} {c : ErrCode} (hc : c ∈ possibleErrors i) :
    c.IsRejection := by
  cases i <;> simp only [possibleErrors, List.mem_cons, List.not_mem_nil, or_false] at hc
  case encReadReq => subst hc; exact ⟨nofun, nofun, nofun⟩
  all_goals rcases hc with rfl | rfl <;> exact ⟨nofun, nofun, nofun⟩

/-- The states a done command leaves (R81 to R83, R86, R90, R108, R109), the commands of the CRC unit as one
case, since they write the same element. -/
inductive DoneBy (s : State) : Instr → State → Prop
  | crc {i : Instr} (c : U16) (hi : isCrcCommand i = true) : DoneBy s i (done { s with crc := c })
  | frame {dev : Byte} {start count : U16} (hdev : dev ≠ 0#8)
      (hlen : responseLength count ≤ s.cfg.rxBufBytes) :
      DoneBy s (.encReadReq dev start count) (done { s with
        tx := memWrite s.tx 0 (requestFrame dev start count)
        txValid := true
        respLen := some (BitVec.ofNat 16 (responseLength count))
        crc := requestCrc dev start count })
  | readStart {deadline : U32} {len : U16} (hlen : len.toNat ≤ s.cfg.rxBufBytes) :
      DoneBy s (.rxReadExact deadline len) (done { s with
        rxExpected := len, rxDeadline := deadline, rx := [], rxCount := 0#16, rxElapsed := 0#32
        shortReason := .none, decValue := none, decValid := false, decOrder := .none
        reading := none, readingOrder := none, readingValid := false
        rxState := if len = 0#16 then .doneOk else .busy })
  | field {off : U16} {u : U32} {ord : DecOrder} (hidle : s.rxState ≠ .busy)
      (hdec : decodeField s.rx off.toNat = some (u, ord)) :
      DoneBy s (.decFloat32 off) (done { s with decValue := some u, decOrder := ord, decValid := true })
  | reading {r : Reading} {orders : BitVec 12} (hok : s.rxState = .doneOk)
      (hlen : s.rxExpected.toNat = readingRespLen) (hdec : decodeFields s.rx = some (r, orders)) :
      DoneBy s .decReading
        (done { s with reading := some r, readingOrder := some orders, readingValid := true })

/-- A command that answers a next state was rejected with one of its codes, or is done. -/
theorem exec_cases {i : Instr} {s t : State} (h : exec i s = .next t) :
    (∃ c ∈ possibleErrors i, t = reject c s) ∨ DoneBy s i t := by
  cases i with
  | crcInit => obtain rfl := Host.Outcome.next.inj h; exact .inr (.crc _ rfl)
  | crcByte b => obtain rfl := Host.Outcome.next.inj h; exact .inr (.crc _ rfl)
  | crcCompute src len =>
    obtain ⟨-, -, rfl⟩ | ⟨-, -, rfl⟩ | ⟨-, -, bytes, -, rfl⟩ := execCrcCompute_cases h
    · exact .inl ⟨.busy, by simp [possibleErrors], rfl⟩
    · exact .inl ⟨.badRange, by simp [possibleErrors], rfl⟩
    · exact .inr (.crc _ rfl)
  | encReadReq dev start count =>
    obtain ⟨-, rfl⟩ | ⟨hdev, hlen, rfl⟩ := execEncReadReq_cases h
    · exact .inl ⟨.encReject, by simp [possibleErrors], rfl⟩
    · exact .inr (.frame hdev hlen)
  | rxReadExact deadline len =>
    obtain ⟨-, rfl⟩ | ⟨-, -, rfl⟩ | ⟨-, hlen, rfl⟩ := execRxReadExact_cases h
    · exact .inl ⟨.busy, by simp [possibleErrors], rfl⟩
    · exact .inl ⟨.rxReject, by simp [possibleErrors], rfl⟩
    · exact .inr (.readStart hlen)
  | decFloat32 off =>
    obtain ⟨-, rfl⟩ | ⟨-, -, rfl⟩ | ⟨hidle, -, u, ord, hdec, rfl⟩ := execDecFloat32_cases h
    · exact .inl ⟨.busy, by simp [possibleErrors], rfl⟩
    · exact .inl ⟨.badRange, by simp [possibleErrors], rfl⟩
    · exact .inr (.field hidle hdec)
  | decReading =>
    obtain ⟨-, rfl⟩ | ⟨-, -, rfl⟩ | ⟨hok, hlen, r, orders, hdec, rfl⟩ := execDecReading_cases h
    · exact .inl ⟨.busy, by simp [possibleErrors], rfl⟩
    · exact .inl ⟨.noFrame, by simp [possibleErrors], rfl⟩
    · exact .inr (.reading hok hlen hdec)

/-- The states one performed event leaves. -/
inductive Performed (s : State) : Event → State → Prop
  | rejected (w : Word) {c : ErrCode} (hc : c.IsRejection) : Performed s (.command w) (reject c s)
  | completed {w : Word} {i : Instr} {t : State} (hw : decode w = some i) (ht : DoneBy s i t) :
      Performed s (.command w) t
  | answered (a : Answer) : Performed s (.answer a) (respond a s)
  | abandoned (a : Answer) : Performed s (.answerAbandoned a) s
  | read (idx : Index) : Performed s (.readPort idx) (recordRead idx s)
  | reset : Performed s .reset (resetBlock s)

theorem perform_cases {e : Event} {s t : State} (h : perform e s = .next t) : Performed s e t := by
  cases e with
  | command w =>
    obtain ⟨i, hi, hexec⟩ | ⟨-, rfl⟩ := issue_cases h
    · obtain ⟨c, hc, rfl⟩ | hdone := exec_cases hexec
      · exact .rejected w (isRejection_of_possibleErrors hc)
      · exact .completed hi hdone
    · exact .rejected w illegalCommand_isRejection
  | answer a => obtain rfl := Host.Outcome.next.inj h; exact .answered a
  | answerAbandoned a => obtain rfl := Host.Outcome.next.inj h; exact .abandoned a
  | readPort idx => obtain rfl := Host.Outcome.next.inj h; exact .read idx
  | reset => obtain rfl := Host.Outcome.next.inj h; exact .reset

/-- A step performs the event in front of the inbox. -/
theorem performed_of_step {s t : State} {e : Event} {rest : List Event} (hinbox : s.inbox = e :: rest)
    (h : step s = .next t) : Performed { s with inbox := rest } e t :=
  perform_cases (step_of_inbox_cons hinbox ▸ h)

theorem runs_of_decode {w : Word} {i : Instr} {p : Instr → Bool} (hw : decode w = some i)
    (hp : p i = true) : Event.runs (.command w) p := ⟨w, i, rfl, hw, hp⟩

end Sys2Proof.Machine
end

section
/-! SUPPORT. Every performed event keeps the invariant of Safety.lean, part by part: the request frame, the
reader unit, the decoder's results, the error fields. -/

namespace Sys2Proof.Machine

/-! ## Each part speaks of its own elements only -/

theorem State.TxInv.congr {s t : State} (h : s.TxInv) (htx : t.tx = s.tx) (hvalid : t.txValid = s.txValid)
    (hresp : t.respLen = s.respLen) (hcfg : t.cfg = s.cfg) : t.TxInv where
  cells := by rw [htx, hvalid]; exact h.cells
  noLength := by rw [hvalid, hresp]; exact h.noLength
  frame := by rw [htx, hvalid, hresp, hcfg]; exact h.frame

theorem State.RxInv.congr {s t : State} (h : s.RxInv) (hrx : t.rx = s.rx) (hcount : t.rxCount = s.rxCount)
    (hexpected : t.rxExpected = s.rxExpected) (helapsed : t.rxElapsed = s.rxElapsed)
    (hdeadline : t.rxDeadline = s.rxDeadline) (hstate : t.rxState = s.rxState)
    (hreason : t.shortReason = s.shortReason) (hcfg : t.cfg = s.cfg) : t.RxInv where
  cells := by rw [hrx, hcount]; exact h.cells
  countLe := by rw [hcount, hexpected]; exact h.countLe
  expectedLe := by rw [hexpected, hcfg]; exact h.expectedLe
  idle := by rw [hstate, hexpected, hdeadline, helapsed]; exact h.idle
  busyMissing := by rw [hstate, hcount, hexpected]; exact h.busyMissing
  busyTime := by rw [hstate, hdeadline, helapsed]; exact h.busyTime
  okFull := by rw [hstate, hcount, hexpected]; exact h.okFull
  partialRead := by rw [hstate, hcount, hexpected]; exact h.partialRead
  shortReason := by rw [hstate, hreason]; exact h.shortReason

/-- The decoder's results stay sound while they, the buffer and the outcome of the read stay as they are. -/
theorem State.DecInv.congr {s t : State} (h : s.DecInv) (hvalue : t.decValue = s.decValue)
    (hvalid : t.decValid = s.decValid) (horder : t.decOrder = s.decOrder) (hreading : t.reading = s.reading)
    (horders : t.readingOrder = s.readingOrder) (hrvalid : t.readingValid = s.readingValid)
    (hrx : t.rx = s.rx) (hstate : t.rxState = s.rxState) (hexpected : t.rxExpected = s.rxExpected) :
    t.DecInv where
  noValue := by rw [hvalid, hvalue, horder]; exact h.noValue
  value := by rw [hvalid, hstate, hrx, horder, hvalue]; exact h.value
  noReading := by rw [hrvalid, hreading, horders]; exact h.noReading
  readingFrame := by rw [hrvalid, hstate, hexpected, hrx, hreading, horders]; exact h.readingFrame

theorem State.ErrInv.congr {s t : State} (h : s.ErrInv) (herr : t.err = s.err)
    (hsticky : t.errSticky = s.errSticky) (hfault : t.rxState = .doneFault → s.rxState = .doneFault) :
    t.ErrInv where
  code := by rw [herr]; exact h.code
  sticky := by rw [herr, hsticky]; exact h.sticky
  faulted ht := by rw [hsticky]; exact h.faulted (hfault ht)

/-- A recorded error meets the error fields' part in any state of the read (R34, R116). -/
theorem State.ErrInv.of_recorded {t : State} (hcode : t.err.IsRejection) (hsticky : t.errSticky = true) :
    t.ErrInv := ⟨hcode.2, fun _ => hsticky, fun _ => hsticky⟩

/-- A done command clears `ERR`, and no command ends a read on a fault (R117). -/
theorem State.ErrInv.of_done {s t : State} (h : s.ErrInv) (herr : t.err = .none)
    (hsticky : t.errSticky = s.errSticky) (hfault : t.rxState = .doneFault → s.rxState = .doneFault) :
    t.ErrInv where
  code := by rw [herr]; exact ⟨nofun, nofun⟩
  sticky hne := absurd herr hne
  faulted ht := by rw [hsticky]; exact h.faulted (hfault ht)

/-! ## Reset (R39) and the operations that write no element but the error fields -/

theorem resetOf_txInv (c : Config) : (State.resetOf c).TxInv := ⟨rfl, fun _ => rfl, nofun⟩

theorem resetOf_rxInv (c : Config) : (State.resetOf c).RxInv where
  cells := holdsFirst_nil
  countLe := Nat.le_refl 0
  expectedLe := Nat.zero_le _
  idle _ := ⟨rfl, rfl, rfl⟩
  busyMissing := nofun
  busyTime := nofun
  okFull := nofun
  partialRead h := absurd rfl h
  shortReason := by simp [State.resetOf]

theorem resetOf_decInv (c : Config) : (State.resetOf c).DecInv :=
  ⟨fun _ => ⟨rfl, rfl⟩, nofun, fun _ => ⟨rfl, rfl⟩, nofun⟩

theorem resetOf_errInv (c : Config) : (State.resetOf c).ErrInv :=
  ⟨⟨nofun, nofun⟩, fun h => absurd rfl h, nofun⟩

/-- Settles O39: part by part, every element at its reset value. -/
theorem resetMeetsTheInvariant : Obligations.ResetMeetsTheInvariant := fun c hc =>
  ⟨hc, resetOf_txInv c, resetOf_rxInv c, resetOf_decInv c, resetOf_errInv c⟩

theorem State.Inv.resetBlock {s : State} (h : s.Inv) : (resetBlock s).Inv where
  cfg := h.cfg
  tx := (resetOf_txInv s.cfg).congr rfl rfl rfl rfl
  rx := (resetOf_rxInv s.cfg).congr rfl rfl rfl rfl rfl rfl rfl rfl
  dec := (resetOf_decInv s.cfg).congr rfl rfl rfl rfl rfl rfl rfl rfl rfl
  err := (resetOf_errInv s.cfg).congr rfl rfl id

theorem State.Inv.recordRead {s : State} (h : s.Inv) (idx : Index) : (recordRead idx s).Inv where
  cfg := h.cfg
  tx := h.tx.congr rfl rfl rfl rfl
  rx := h.rx.congr rfl rfl rfl rfl rfl rfl rfl rfl
  dec := h.dec.congr rfl rfl rfl rfl rfl rfl rfl rfl rfl
  err := h.err.congr rfl rfl id

theorem State.Inv.reject {s : State} (h : s.Inv) {c : ErrCode} (hc : c.IsRejection) :
    (reject c s).Inv where
  cfg := h.cfg
  tx := h.tx.congr rfl rfl rfl rfl
  rx := h.rx.congr rfl rfl rfl rfl rfl rfl rfl rfl
  dec := h.dec.congr rfl rfl rfl rfl rfl rfl rfl rfl rfl
  err := .of_recorded hc rfl

/-! ## A done command -/

theorem requestFrame_length (dev : Byte) (start count : U16) :
    (requestFrame dev start count).length = 8 := rfl

/-- Writing the frame fills TX with exactly its eight bytes, whether TX held a frame before or nothing. -/
theorem State.TxInv.memWrite_frame {s : State} (h : s.TxInv) (dev : Byte) (start count : U16) :
    (memWrite s.tx 0 (requestFrame dev start count)).holdsFirst 8 ∧
      (memWrite s.tx 0 (requestFrame dev start count)).map Prod.snd = requestFrame dev start count := by
  have hcells := h.cells
  cases hvalid : s.txValid with
  | true =>
    rw [hvalid, if_pos rfl] at hcells
    exact memWrite_over hcells _ (requestFrame_length dev start count)
  | false =>
    rw [hvalid, if_neg nofun] at hcells
    have hempty : s.tx = [] := List.eq_nil_of_length_eq_zero (length_of_holdsFirst hcells)
    simpa [hempty, requestFrame_length] using memWrite_at_end holdsFirst_nil (requestFrame dev start count)

/-- A new read: nothing collected; BUSY with every byte missing, or done at once when none is asked for
(R90). -/
theorem newRead_rxInv {t : State} (hrx : t.rx = []) (hcount : t.rxCount = 0#16)
    (helapsed : t.rxElapsed = 0#32) (hreason : t.shortReason = .none)
    (hstate : t.rxState = if t.rxExpected = 0#16 then .doneOk else .busy)
    (hle : t.rxExpected.toNat ≤ t.cfg.rxBufBytes) : t.RxInv := by
  have hcells : t.rx.holdsFirst t.rxCount.toNat := by rw [hrx, hcount]; exact holdsFirst_nil
  have hcountLe : t.rxCount.toNat ≤ t.rxExpected.toNat := by simp [hcount]
  by_cases hz : t.rxExpected = 0#16
  · rw [if_pos hz] at hstate
    exact {
      cells := hcells
      countLe := hcountLe
      expectedLe := hle
      idle := by simp [hstate]
      busyMissing := by simp [hstate]
      busyTime := by simp [hstate]
      okFull := fun _ => hcount.trans hz.symm
      partialRead := by simp [hstate]
      shortReason := by simp [hstate, hreason] }
  · rw [if_neg hz] at hstate
    have hpos : 0 < t.rxExpected.toNat := Nat.pos_of_ne_zero fun h0 => hz (BitVec.eq_of_toNat_eq h0)
    have htime : t.rxDeadline = 0#32 ∨ 0 < t.rxDeadline.toNat :=
      (Nat.eq_zero_or_pos t.rxDeadline.toNat).imp_left BitVec.eq_of_toNat_eq
    exact {
      cells := hcells
      countLe := hcountLe
      expectedLe := hle
      idle := by simp [hstate]
      busyMissing := fun _ => by rw [hcount]; exact hpos
      busyTime := fun _ => by rw [helapsed]; exact htime
      okFull := by simp [hstate]
      partialRead := by simp [hstate]
      shortReason := by simp [hstate, hreason] }

theorem DoneBy.inv {s t : State} {i : Instr} (h : s.Inv) (ht : DoneBy s i t) : t.Inv := by
  cases ht with
  | crc c hi =>
    exact ⟨h.cfg, h.tx.congr rfl rfl rfl rfl, h.rx.congr rfl rfl rfl rfl rfl rfl rfl rfl,
      h.dec.congr rfl rfl rfl rfl rfl rfl rfl rfl rfl, h.err.of_done rfl rfl id⟩
  | @frame dev start count hdev hlen =>
    obtain ⟨hcells, hbytes⟩ := h.tx.memWrite_frame dev start count
    exact ⟨h.cfg, ⟨hcells, nofun, fun _ => ⟨dev, start, count, hdev, hlen, hbytes, rfl⟩⟩,
      h.rx.congr rfl rfl rfl rfl rfl rfl rfl rfl,
      h.dec.congr rfl rfl rfl rfl rfl rfl rfl rfl rfl, h.err.of_done rfl rfl id⟩
  | @readStart deadline len hlen =>
    refine ⟨h.cfg, h.tx.congr rfl rfl rfl rfl, newRead_rxInv rfl rfl rfl rfl rfl hlen,
      ⟨fun _ => ⟨rfl, rfl⟩, nofun, fun _ => ⟨rfl, rfl⟩, nofun⟩, h.err.of_done rfl rfl fun hfault => ?_⟩
    by_cases hz : len = 0#16 <;> simp [hz] at hfault
  | @field off u ord hidle hdec =>
    exact ⟨h.cfg, h.tx.congr rfl rfl rfl rfl, h.rx.congr rfl rfl rfl rfl rfl rfl rfl rfl,
      ⟨nofun, fun _ => ⟨hidle, off.toNat, u, hdec, rfl⟩, h.dec.noReading, h.dec.readingFrame⟩,
      h.err.of_done rfl rfl id⟩
  | @reading r orders hok hlen hdec =>
    exact ⟨h.cfg, h.tx.congr rfl rfl rfl rfl, h.rx.congr rfl rfl rfl rfl rfl rfl rfl rfl,
      ⟨h.dec.noValue, h.dec.value, nofun, fun _ => ⟨hok, hlen, r, orders, hdec, rfl, rfl⟩⟩,
      h.err.of_done rfl rfl id⟩

/-! ## The response step (R93) -/

/-- A read that ended before its last byte (R29, R30). -/
theorem endedEarly_rxInv {t : State} (hcells : t.rx.holdsFirst t.rxCount.toNat)
    (hmissing : t.rxCount.toNat < t.rxExpected.toNat) (hle : t.rxExpected.toNat ≤ t.cfg.rxBufBytes)
    (hended : t.rxState ≠ .idle ∧ t.rxState ≠ .busy ∧ t.rxState ≠ .doneOk)
    (hreason : t.shortReason ≠ .none ↔ t.rxState = .doneShort) : t.RxInv where
  cells := hcells
  countLe := hmissing.le
  expectedLe := hle
  idle hidle := absurd hidle hended.1
  busyMissing hbusy := absurd hbusy hended.2.1
  busyTime hbusy := absurd hbusy hended.2.1
  okFull hok := absurd hok hended.2.2
  partialRead _ _ _ := hmissing
  shortReason := hreason

/-- While BUSY there is no reason for a short end yet (R30). -/
theorem State.RxInv.shortReason_of_busy {s : State} (h : s.RxInv) (hb : s.rxState = .busy) :
    s.shortReason = .none := by
  by_contra hne
  exact absurd (hb.symm.trans (h.shortReason.1 hne)) nofun

/-- The bytes of an accepted answer go to the first free indices of RX (R98). -/
theorem State.RxInv.collect_cells {s : State} (h : s.RxInv) {bs : List Byte} (h1 : 1 ≤ bs.length)
    (hfit : bs.length ≤ missingBytes s) :
    (collect bs s).rx.holdsFirst (collect bs s).rxCount.toNat := by
  rw [(collect_count h1 hfit).1]
  exact (memWrite_at_end h.cells bs).1

/-- A collecting step completes the read, ends it at its deadline, or leaves bytes missing and time. -/
theorem settle_collect_rxInv {s : State} (h : s.RxInv) (hb : s.rxState = .busy) {bs : List Byte} {e : U32}
    (h1 : 1 ≤ bs.length) (hfit : bs.length ≤ missingBytes s) :
    (settle (collect bs (accumulate e s))).RxInv := by
  have hacc : bs.length ≤ missingBytes (accumulate e s) := hfit
  have hcells : (memWrite s.rx s.rxCount.toNat bs).holdsFirst
      (collect bs (accumulate e s)).rxCount.toNat := h.collect_cells h1 hfit
  have hreason := h.shortReason_of_busy hb
  have hle : (collect bs (accumulate e s)).rxCount.toNat ≤ s.rxExpected.toNat :=
    (collect_count h1 hacc).1.trans_le (collect_count h1 hacc).2
  obtain ⟨hfull, hs⟩ | ⟨hmiss, -, -, hs⟩ | ⟨hmiss, htime, hs⟩ := settle_cases (collect bs (accumulate e s))
  · rw [hs]
    exact {
      cells := hcells
      countLe := hle
      expectedLe := h.expectedLe
      idle := nofun
      busyMissing := nofun
      busyTime := nofun
      okFull := fun _ => hfull
      partialRead := fun _ _ hok => absurd rfl hok
      shortReason := by simp [hreason] }
  · have hlt := hle.lt_of_ne fun heq => hmiss (BitVec.eq_of_toNat_eq heq)
    rw [hs]
    exact endedEarly_rxInv hcells hlt h.expectedLe ⟨nofun, nofun, nofun⟩ (by simp)
  · have hlt := hle.lt_of_ne fun heq => hmiss (BitVec.eq_of_toNat_eq heq)
    rw [hs]
    exact {
      cells := hcells
      countLe := hle
      expectedLe := h.expectedLe
      idle := by simp [hb]
      busyMissing := fun _ => hlt
      busyTime := fun _ => htime
      okFull := by simp [hb]
      partialRead := by simp [hb]
      shortReason := by simp [hb, hreason] }

theorem respond_rxInv {s : State} (h : s.RxInv) (a : Answer) : (respond a s).RxInv := by
  by_cases hb : s.rxState = .busy
  case neg => rwa [respond_of_not_busy hb]
  have hmissing := h.busyMissing hb
  have hreason := h.shortReason_of_busy hb
  obtain ⟨e, -, hr⟩ | ⟨e, -, hr⟩ | ⟨e, -, hr⟩ | ⟨bs, e, -, -, hr⟩ | ⟨e, -, hr⟩ |
    ⟨bs, e, -, h1, hfit, hr⟩ := respond_cases (a := a) hb
  case inr.inr.inr.inr.inr => rw [hr]; exact settle_collect_rxInv h hb h1 hfit
  all_goals
    rw [hr]
    exact endedEarly_rxInv h.cells hmissing h.expectedLe ⟨nofun, nofun, nofun⟩ (by simp [hreason])

/-- A collecting step never ends on a fault. -/
theorem settle_rxState_ne_doneFault {s : State} (hb : s.rxState = .busy) :
    (settle s).rxState ≠ .doneFault := by
  obtain ⟨-, hs⟩ | ⟨-, -, -, hs⟩ | ⟨-, -, hs⟩ := settle_cases s <;> simp [hs, hb]

/-- A response step that ends on a fault records it (R96, R116). -/
theorem respond_sticky_of_doneFault {s : State} (hb : s.rxState = .busy) {a : Answer}
    (hfault : (respond a s).rxState = .doneFault) : (respond a s).errSticky = true := by
  obtain ⟨e, -, hr⟩ | ⟨e, -, hr⟩ | ⟨e, -, hr⟩ | ⟨bs, e, -, -, hr⟩ | ⟨e, -, hr⟩ |
    ⟨bs, e, -, -, -, hr⟩ := respond_cases (a := a) hb
  case inr.inr.inr.inl => rw [hr]; rfl
  case inr.inr.inr.inr.inr =>
    exact absurd (hr ▸ hfault) (settle_rxState_ne_doneFault (by simpa using hb))
  all_goals simp [hr] at hfault

theorem respond_errInv {s : State} (h : s.ErrInv) (a : Answer) : (respond a s).ErrInv := by
  by_cases hb : s.rxState = .busy
  case neg => rwa [respond_of_not_busy hb]
  obtain ⟨herr, hsticky⟩ | ⟨-, herr, hsticky⟩ := respond_err a s
  · exact ⟨by rw [herr]; exact h.code, by rw [herr, hsticky]; exact h.sticky,
      respond_sticky_of_doneFault hb⟩
  · exact .of_recorded (by rw [herr]; exact ⟨nofun, nofun, nofun⟩) hsticky

theorem respond_txInv {s : State} (h : s.TxInv) (a : Answer) : (respond a s).TxInv := by
  obtain ⟨-, htx, hvalid, hresp, -, -, -, -, -, -, -, -, hcfg, -, -⟩ := respond_frame a s
  exact h.congr htx hvalid hresp hcfg

/-- While BUSY no decoder result is valid, and a response step makes none (R32, R33). -/
theorem respond_decInv {s : State} (h : s.DecInv) (a : Answer) : (respond a s).DecInv := by
  by_cases hb : s.rxState = .busy
  case neg => rwa [respond_of_not_busy hb]
  have hdec : s.decValid = false := by
    by_contra hvalid
    exact (h.value (by simpa using hvalid)).1 hb
  have hread : s.readingValid = false := by
    by_contra hvalid
    exact absurd (hb.symm.trans (h.readingFrame (by simpa using hvalid)).1) nofun
  obtain ⟨-, -, -, -, -, -, hvalue, hvalid, horder, hreading, horders, hrvalid, -⟩ := respond_frame a s
  exact ⟨by rw [hvalid, hvalue, horder]; exact h.noValue, by simp [hvalid, hdec],
    by rw [hrvalid, hreading, horders]; exact h.noReading, by simp [hrvalid, hread]⟩

theorem State.Inv.respond {s : State} (h : s.Inv) (a : Answer) : (respond a s).Inv where
  cfg := by
    obtain ⟨-, -, -, -, -, -, -, -, -, -, -, -, hcfg, -, -⟩ := respond_frame a s
    rw [hcfg]
    exact h.cfg
  tx := respond_txInv h.tx a
  rx := respond_rxInv h.rx a
  dec := respond_decInv h.dec a
  err := respond_errInv h.err a

/-! ## The step -/

theorem Performed.inv {s t : State} {e : Event} (h : s.Inv) (ht : Performed s e t) : t.Inv := by
  cases ht with
  | rejected w hc => exact h.reject hc
  | completed hw hdone => exact hdone.inv h
  | answered a => exact h.respond a
  | abandoned a => exact h
  | read idx => exact h.recordRead idx
  | reset => exact h.resetBlock

/-- Settles O40: a step performs one event on the state with the event taken off, which meets the invariant
too, and each kind of event keeps it. -/
theorem stepKeepsTheInvariant : Obligations.StepKeepsTheInvariant := by
  intro s t h hstep
  obtain ⟨e, rest, -, hperform⟩ := step_cases hstep
  exact (perform_cases hperform).inv (h.with_inbox rest)

end Sys2Proof.Machine
end

section
/-! SUPPORT. Which steps write which elements (spec/10_state.md R20, R34, R38, R39), read off what a performed
event does, and the accumulation of a response step (R27, R93). -/

namespace Sys2Proof.Machine

/-- Settles O50: reset is one event, and its state is R39's record. -/
theorem resetSetsEveryElement : Obligations.ResetSetsEveryElement := by
  intro s rest hinbox
  rw [step_of_inbox_cons hinbox, perform]
  rfl

/-! ## The accumulator -/

@[simp] theorem settle_rxElapsed (s : State) : (settle s).rxElapsed = s.rxElapsed := by
  obtain ⟨-, hs⟩ | ⟨-, -, -, hs⟩ | ⟨-, -, hs⟩ := settle_cases s <;> simp [hs]

/-- Every response step accumulates the time the call took, whatever the answer (R93). -/
theorem respond_rxElapsed {s : State} (hb : s.rxState = .busy) (a : Answer) :
    (respond a s).rxElapsed = satAdd s.rxElapsed a.elapsed := by
  obtain ⟨e, rfl, hr⟩ | ⟨e, rfl, hr⟩ | ⟨e, rfl, hr⟩ | ⟨bs, e, rfl, -, hr⟩ | ⟨e, rfl, hr⟩ |
    ⟨bs, e, rfl, -, -, hr⟩ := respond_cases (a := a) hb
  all_goals simp [hr, Answer.elapsed]

/-- Settles O25: the sum is `satAdd`'s, and RX_ELAPSED itself is below the bound it saturates at. -/
theorem accumulatorSaturates : Obligations.AccumulatorSaturates := by
  intro s rest a hb hinbox
  refine ⟨_, step_of_inbox_cons hinbox, ?_⟩
  have hsum : (respond a { s with inbox := rest }).rxElapsed.toNat =
      min (s.rxElapsed.toNat + a.elapsed.toNat) (2 ^ 32 - 1) := by
    rw [respond_rxElapsed (by exact hb), satAdd_toNat]
  have hlt := s.rxElapsed.isLt
  exact ⟨hsum, by omega⟩

/-! ## ERR_STICKY (R34, R116) -/

theorem DoneBy.err {s t : State} {i : Instr} (h : DoneBy s i t) : t.err = .none := by cases h <;> rfl

theorem DoneBy.errSticky {s t : State} {i : Instr} (h : DoneBy s i t) : t.errSticky = s.errSticky := by
  cases h <;> rfl

/-- Only reset clears `ERR_STICKY`. -/
theorem Performed.sticky_of_ne_reset {s t : State} {e : Event} (h : Performed s e t) (hne : e ≠ .reset)
    (hs : s.errSticky = true) : t.errSticky = true := by
  cases h with
  | rejected w hc => rfl
  | completed hw hdone => rw [hdone.errSticky, hs]
  | answered a =>
    obtain ⟨-, hkept⟩ | ⟨-, -, hset⟩ := respond_err a s
    · rw [hkept, hs]
    · exact hset
  | abandoned a => exact hs
  | read idx => exact hs
  | reset => exact absurd rfl hne

/-- A new non-zero `ERR` sets `ERR_STICKY`. -/
theorem Performed.sticky_of_err {s t : State} {e : Event} (h : Performed s e t) (hnew : t.err ≠ s.err)
    (herr : t.err ≠ .none) : t.errSticky = true := by
  cases h with
  | rejected w hc => rfl
  | completed hw hdone => exact absurd hdone.err herr
  | answered a =>
    obtain ⟨hkept, -⟩ | ⟨-, -, hset⟩ := respond_err a s
    · exact absurd hkept hnew
    · exact hset
  | abandoned a => exact absurd rfl hnew
  | read idx => exact absurd rfl hnew
  | reset => exact absurd rfl herr

/-- Settles O43: each clause is a fact about the one event the step performs. -/
theorem errStickyOnlyResetClears : Obligations.ErrStickyOnlyResetClears := by
  intro s t hstep
  obtain ⟨e, rest, hinbox, -⟩ := step_cases hstep
  have h := performed_of_step hinbox hstep
  rw [hinbox, List.head?_cons]
  refine ⟨fun hs hne => h.sticky_of_ne_reset (fun he => hne (congrArg some he)) hs, fun he => ?_,
    h.sticky_of_err⟩
  obtain rfl := Option.some.inj he
  cases h
  rfl

/-! ## The valid flags (R38) -/

/-- What a performed event can do to the valid flags: keep all three, clear them by reset, or do what the one
done command that writes them does. -/
theorem Performed.validFlags {s t : State} {e : Event} (h : Performed s e t) :
    (t.txValid = s.txValid ∧ t.decValid = s.decValid ∧ t.readingValid = s.readingValid) ∨
    e = .reset ∨
    (e.runs isEncReadReq ∧ t.err = .none ∧ t.txValid = true ∧
      t.decValid = s.decValid ∧ t.readingValid = s.readingValid) ∨
    (e.runs isRxReadExact ∧ t.err = .none ∧ t.txValid = s.txValid ∧
      t.decValid = false ∧ t.readingValid = false) ∨
    (e.runs isDecFloat32 ∧ t.err = .none ∧ t.txValid = s.txValid ∧
      t.decValid = true ∧ t.readingValid = s.readingValid) ∨
    (e.runs isDecReading ∧ t.err = .none ∧ t.txValid = s.txValid ∧
      t.decValid = s.decValid ∧ t.readingValid = true) := by
  cases h with
  | rejected w hc => exact .inl ⟨rfl, rfl, rfl⟩
  | completed hw hdone =>
    cases hdone with
    | crc c hi => exact .inl ⟨rfl, rfl, rfl⟩
    | frame => exact .inr (.inr (.inl ⟨runs_of_decode hw rfl, rfl, rfl, rfl, rfl⟩))
    | readStart => exact .inr (.inr (.inr (.inl ⟨runs_of_decode hw rfl, rfl, rfl, rfl, rfl⟩)))
    | field => exact .inr (.inr (.inr (.inr (.inl ⟨runs_of_decode hw rfl, rfl, rfl, rfl, rfl⟩))))
    | reading => exact .inr (.inr (.inr (.inr (.inr ⟨runs_of_decode hw rfl, rfl, rfl, rfl, rfl⟩))))
  | answered a =>
    obtain ⟨-, -, htx, -, -, -, -, hdec, -, -, -, hread, -⟩ := respond_frame a s
    exact .inl ⟨htx, hdec, hread⟩
  | abandoned a => exact .inl ⟨rfl, rfl, rfl⟩
  | read idx => exact .inl ⟨rfl, rfl, rfl⟩
  | reset => exact .inr (.inl rfl)

/-- Settles O44: in each case of `Performed.validFlags` the flags that change are the ones the case names, and
reset sets none. -/
theorem validFlagsHaveTheirWriters : Obligations.ValidFlagsHaveTheirWriters := by
  intro s t e rest hinbox hstep
  have h := performed_of_step hinbox hstep
  obtain ⟨htx, hdec, hread⟩ | rfl | ⟨hruns, herr, htx, hdec, hread⟩ | ⟨hruns, herr, htx, hdec, hread⟩ |
    ⟨hruns, herr, htx, hdec, hread⟩ | ⟨hruns, herr, htx, hdec, hread⟩ := h.validFlags
  case inr.inl =>
    cases h
    simp
  case inl => simp +contextual [htx, hdec, hread]
  all_goals simp +contextual [htx, hdec, hread, hruns, herr]

/-! ## The "written by" column of R20 -/

@[simp] theorem isCommand_command (w : Word) : (Event.command w).isCommand := ⟨w, rfl⟩

@[simp] theorem isAnswer_answer (a : Answer) : (Event.answer a).isAnswer := ⟨a, rfl⟩

/-- Settles O45: by the event performed; each case's record names the elements it writes. -/
theorem elementsHaveTheirWriters : Obligations.ElementsHaveTheirWriters := by
  intro s t e rest hinbox hstep
  have h := performed_of_step hinbox hstep
  cases h with
  | rejected w hc =>
    simp [hc.1]
  | completed hw hdone =>
    cases hdone with
    | crc c hi => simp [runs_of_decode hw hi]
    | frame => simp [runs_of_decode (p := isEncReadReq) hw rfl]
    | readStart => simp [runs_of_decode (p := isRxReadExact) hw rfl]
    | field => simp [runs_of_decode (p := isDecFloat32) hw rfl]
    | reading => simp [runs_of_decode (p := isDecReading) hw rfl]
  | answered a =>
    have hframe := respond_frame a { s with inbox := rest }
    obtain ⟨herr, hsticky⟩ | ⟨hfault, -, -⟩ := respond_err a { s with inbox := rest }
    · simp [hframe, herr, hsticky]
    · simp [hframe, hfault]
  | abandoned a => simp
  | read idx => simp
  | reset => simp

end Sys2Proof.Machine
end

section
/-! SUPPORT. The read port (spec/10_state.md R35, R36, R39; spec/20_memory.md R51): which element each range of
the index map shows, and the fields of the STATUS word. -/

namespace Sys2Proof.Machine

/-! ## The result of a read, from the map and the element's value (R51) -/

theorem readPort_ok {s : State} {idx : Index} {r : PortReg} {v : U32} (hmap : portMap s.cfg idx = some r)
    (hval : portValue s r = some v) : readPort s idx = .ok v := by
  simp only [readPort, hmap, hval]

theorem readPort_unwritten {s : State} {idx : Index} {r : PortReg} (hmap : portMap s.cfg idx = some r)
    (hval : portValue s r = none) : readPort s idx = .err .readUnwritten := by
  simp only [readPort, hmap, hval]

theorem readPort_badIndex {s : State} {idx : Index} (hmap : portMap s.cfg idx = none) :
    readPort s idx = .err .badIndex := by
  simp only [readPort, hmap]

/-! ## The ranges of the index map (R36) -/

theorem portMap_reading {c : Config} {idx : Index} {k : Nat} (hidx : idx.toNat = 0x008 + k) (hk : k < 6) :
    portMap c idx = some (.reading k) := by
  simp (disch := omega) only [portMap, hidx, if_neg, if_pos, Nat.add_sub_cancel_left]

theorem portMap_tx {c : Config} {idx : Index} {k : Nat} (hidx : idx.toNat = 0x010 + k) (hk : k < 8) :
    portMap c idx = some (.tx k) := by
  simp (disch := omega) only [portMap, hidx, if_neg, if_pos, Nat.add_sub_cancel_left]

theorem portMap_rx {c : Config} {idx : Index} {i : Nat} (hidx : idx.toNat = 0x100 + i)
    (hi : i < c.rxBufBytes) : portMap c idx = some (.rx i) := by
  simp (disch := omega) only [portMap, hidx, if_neg, if_pos, Nat.add_sub_cancel_left]

theorem portMap_reserved {c : Config} {idx : Index} (hidx : idx.toNat = 0x00F ∨
    (0x018 ≤ idx.toNat ∧ idx.toNat ≤ 0x0FF) ∨ 0x100 + c.rxBufBytes ≤ idx.toNat) :
    portMap c idx = none := by
  obtain h | h | h := hidx <;> simp (disch := omega) only [portMap, if_neg, if_pos]

/-! ## The values of a state that meets the invariant -/

theorem Reading.slot_eq_some (r : Reading) {k : Nat} (hk : k < 6) : ∃ v, r.slot k = some v := by
  interval_cases k <;> exact ⟨_, rfl⟩

theorem memGet_eq_some_of_holdsFirst {m : Memory} {n : Nat} (h : m.holdsFirst n) {i : Nat} (hi : i < n) :
    ∃ b, memGet m i = some b :=
  Option.isSome_iff_exists.1 ((memGet_isSome_of_holdsFirst h i).2 hi)

/-- Settles O47: each index is in one range of the map, and under the invariant an element whose valid bit
is set, or whose index is below RX_COUNT, has a value. -/
theorem readPortFollowsTheIndexMap : Obligations.ReadPortFollowsTheIndexMap := by
  intro s h
  obtain ⟨-, hbuf, -⟩ := h.cfg
  have htoNat {n : Nat} (hn : n < 2 ^ 17) : (BitVec.ofNat 17 n).toNat = n :=
    Nat.mod_eq_of_lt hn
  have hcount := h.rx.countLe.trans h.rx.expectedLe
  refine ⟨rfl, rfl, fun hv => ?_, fun hv => ?_, rfl, rfl, rfl, rfl, fun hv => ?_, fun hv => ?_,
    fun k hk hv => ?_, fun k hk hv => ?_, fun hv => ?_, fun hv => ?_, rfl, fun k hk hv => ?_,
    fun k hk hv => ?_, fun n hlo hhi => ?_, fun i hi => ?_, fun i hlo hhi => ?_, fun n hlo hhi => ?_⟩
  · exact readPort_unwritten (r := .respLen) rfl (by simp [portValue, hv])
  · obtain ⟨_, _, _, -, -, -, hlen⟩ := h.tx.frame hv
    exact ⟨_, hlen, readPort_ok (r := .respLen) rfl (by simp [portValue, hv, hlen])⟩
  · exact readPort_unwritten (r := .decValue) rfl (by simp [portValue, hv])
  · obtain ⟨-, _, u, -, hu⟩ := h.dec.value hv
    exact ⟨u, hu, readPort_ok (r := .decValue) rfl (by simp [portValue, hv, hu])⟩
  · exact readPort_unwritten (portMap_reading (htoNat (by omega)) hk) (by simp [portValue, hv])
  · obtain ⟨-, -, r, _, -, hr, -⟩ := h.dec.readingFrame hv
    obtain ⟨v, hslot⟩ := r.slot_eq_some hk
    exact ⟨r, v, hr, hslot,
      readPort_ok (portMap_reading (htoNat (by omega)) hk) (by simp [portValue, hv, hr, hslot])⟩
  · exact readPort_unwritten (r := .readingOrder) rfl (by simp [portValue, hv])
  · obtain ⟨-, -, _, orders, -, -, ho⟩ := h.dec.readingFrame hv
    exact ⟨orders, ho, readPort_ok (r := .readingOrder) rfl (by simp [portValue, hv, ho])⟩
  · exact readPort_unwritten (portMap_tx (htoNat (by omega)) hk) (by simp [portValue, hv])
  · have hcells := h.tx.cells
    rw [if_pos hv] at hcells
    obtain ⟨b, hb⟩ := memGet_eq_some_of_holdsFirst hcells hk
    exact ⟨b, hb, readPort_ok (portMap_tx (htoNat (by omega)) hk) (by simp [portValue, hv, hb])⟩
  · exact readPort_badIndex (portMap_reserved (by rw [htoNat (by omega)]; omega))
  · obtain ⟨b, hb⟩ := memGet_eq_some_of_holdsFirst h.rx.cells hi
    exact ⟨b, hb, readPort_ok (portMap_rx (htoNat (by omega)) (by omega)) (by simp [portValue, hi, hb])⟩
  · exact readPort_unwritten (portMap_rx (htoNat (by omega)) hhi) (by simp [portValue, Nat.not_lt.2 hlo])
  · exact readPort_badIndex (portMap_reserved (by rw [htoNat hhi]; omega))

/-! ## The read port after reset (R39) -/

/-- STATUS is 0 after reset: every field holds its code 0. -/
theorem statusWord_resetOf (c : Config) : statusWord (State.resetOf c) = 0#32 := by
  simp [statusWord, State.resetOf, errCode, orderCode, shortReasonCode, rxStateCode]

/-- An index that is neither reserved nor that of a register with a reset value shows a register to which R39
gives no value. -/
theorem portMap_no_value_after_reset {c : Config} {idx : Index} (h0 : idx.toNat ≠ 0x000)
    (h1 : idx.toNat ≠ 0x001) (h3 : ¬ (0x003 ≤ idx.toNat ∧ idx.toNat ≤ 0x006))
    (hres : ¬ (idx.toNat = 0x00F ∨ (0x018 ≤ idx.toNat ∧ idx.toNat ≤ 0x0FF) ∨
      0x100 + c.rxBufBytes ≤ idx.toNat)) :
    ∃ r, portMap c idx = some r ∧ portValue (State.resetOf c) r = none := by
  have hrange : idx.toNat = 0x002 ∨ idx.toNat = 0x007 ∨
      (idx.toNat = 0x008 + (idx.toNat - 0x008) ∧ idx.toNat - 0x008 < 6) ∨ idx.toNat = 0x00E ∨
      (idx.toNat = 0x010 + (idx.toNat - 0x010) ∧ idx.toNat - 0x010 < 8) ∨
      (idx.toNat = 0x100 + (idx.toNat - 0x100) ∧ idx.toNat - 0x100 < c.rxBufBytes) := by omega
  obtain h | h | ⟨h, hk⟩ | h | ⟨h, hk⟩ | ⟨h, hi⟩ := hrange
  · exact ⟨.respLen, by simp [portMap, h], rfl⟩
  · exact ⟨.decValue, by simp [portMap, h], rfl⟩
  · exact ⟨_, portMap_reading h hk, rfl⟩
  · exact ⟨.readingOrder, by simp [portMap, h], rfl⟩
  · exact ⟨_, portMap_tx h hk, rfl⟩
  · exact ⟨_, portMap_rx h hi, rfl⟩

/-- Settles O51: by the branches of the statement, each one range of the index map. -/
theorem readPortAfterReset : Obligations.ReadPortAfterReset := by
  intro c idx _
  split_ifs with h0 h1 h3 hres
  · exact readPort_ok (r := .status) (if_pos h0) (congrArg some (statusWord_resetOf c))
  · exact readPort_ok (r := .crc) (by simp [portMap, h1]) rfl
  · obtain h | h | h | h : idx.toNat = 0x003 ∨ idx.toNat = 0x004 ∨ idx.toNat = 0x005 ∨
        idx.toNat = 0x006 := by omega
    · exact readPort_ok (r := .rxExpected) (by simp [portMap, h]) rfl
    · exact readPort_ok (r := .rxCount) (by simp [portMap, h]) rfl
    · exact readPort_ok (r := .rxElapsed) (by simp [portMap, h]) rfl
    · exact readPort_ok (r := .rxDeadline) (by simp [portMap, h]) rfl
  · exact readPort_badIndex (portMap_reserved hres)
  · obtain ⟨r, hmap, hval⟩ := portMap_no_value_after_reset h0 h1 h3 hres
    exact readPort_unwritten hmap hval

/-! ## The STATUS word (R35) -/

theorem rxStateCode_mem (r : RxState) : (r, rxStateCode r) ∈ rxStateNumbers := by
  cases r <;> simp [rxStateNumbers, rxStateCode]

theorem shortReasonCode_mem (r : ShortReason) : (r, shortReasonCode r) ∈ shortReasonNumbers := by
  cases r <;> simp [shortReasonNumbers, shortReasonCode]

theorem orderCode_mem (o : DecOrder) : (o, orderCode o) ∈ (DecOrder.none, 0#2) :: resolvedOrderNumbers := by
  cases o <;> simp [resolvedOrderNumbers, orderCode]

theorem errCode_mem (e : ErrCode) : (e, errCode e) ∈ errNumbers := by
  cases e <;> simp [errNumbers, errCode]

/-- The fields of more than one bit and the reserved bits, each at R35's place. -/
theorem statusWord_fields (s : State) :
    (statusWord s).extractLsb 2 0 = rxStateCode s.rxState ∧
    (statusWord s).extractLsb 4 3 = shortReasonCode s.shortReason ∧
    (statusWord s).extractLsb 8 7 = orderCode s.decOrder ∧
    (statusWord s).extractLsb 11 10 = 0#2 ∧
    (statusWord s).extractLsb 15 12 = errCode s.err ∧
    (statusWord s).extractLsb 31 17 = 0#15 := by
  refine ⟨statusWord_extractLsb s 2 0 _ fun i hi => ?_, statusWord_extractLsb s 4 3 _ fun i hi => ?_,
    statusWord_extractLsb s 8 7 _ fun i hi => ?_, statusWord_extractLsb s 11 10 _ fun i hi => ?_,
    statusWord_extractLsb s 15 12 _ fun i hi => ?_, statusWord_extractLsb s 31 17 _ fun i hi => ?_⟩
  all_goals simp (disch := omega) only [statusWord_getLsbD, if_pos, if_neg, Nat.zero_add,
    Nat.add_sub_cancel_left, BitVec.getLsbD_zero]

/-- Settles O49: field by field, the element's code at R35's bits, and that code in the spec's table. -/
theorem statusWordFields : Obligations.StatusWordFields := by
  intro s
  obtain ⟨hrx, hshort, horder, hlow, herr, hhigh⟩ := statusWord_fields s
  exact ⟨statusWord s, rfl, hrx ▸ rxStateCode_mem _, hshort ▸ shortReasonCode_mem _,
    statusWord_getLsbD s 5, statusWord_getLsbD s 6, horder ▸ orderCode_mem _, statusWord_getLsbD s 9,
    hlow, herr ▸ errCode_mem _, statusWord_getLsbD s 16, hhigh⟩

end Sys2Proof.Machine
end

section
/-! SUPPORT. The order of the steps and the reads of the host (spec/20_memory.md R48, R53): a decoded command
word runs its command, and a read of the read port leaves the block as it was. -/

namespace Sys2Proof.Machine

/-! ## A command word that decodes (R53, R59) -/

theorem issue_of_decode {w : Word} {i : Instr} (hw : decode w = some i) (s : State) :
    issue w s = exec i s := by
  simp only [issue, hw]

/-- Settles O6: the step takes the word off the inbox and issues it, and issuing it is the decoded command. -/
theorem stepRunsDecodedCommand : Obligations.StepRunsDecodedCommand := by
  intro w i hw s rest hinbox
  rw [step_of_inbox_cons hinbox, perform, issue_of_decode hw]

/-! ## A read of the read port (R48) -/

/-- The read port shows the block alone: what an earlier read returned does not reach it. -/
@[simp] theorem readPort_with_readResult (s : State) (r : Option ReadResult) (idx : Index) :
    readPort { s with readResult := r } idx = readPort s idx := rfl

theorem step_readPort {s : State} {idx : Index} {rest : List Event} (h : s.inbox = .readPort idx :: rest) :
    step s = .next { s with inbox := rest, readResult := some (readPort s idx) } := by
  obtain ⟨-, -, hread⟩ := stepPerformsOtherAgents s rest
  exact hread idx h

/-- Settles O48: the first read leaves every element the second one looks at. -/
theorem readsHaveNoSideEffect : Obligations.ReadsHaveNoSideEffect := by
  intro s idx rest hinbox
  refine ⟨_, _, step_readPort hinbox, step_readPort rfl, rfl, ?_⟩
  have hsame : readPort { s with inbox := .readPort idx :: rest, readResult := some (readPort s idx) } idx =
      readPort s idx := by
    rw [readPort_with_readResult { s with inbox := .readPort idx :: rest }, readPort_with_inbox]
  rw [hsame]

end Sys2Proof.Machine
end

section
/-! SUPPORT. The encoding of commands (spec/30_encoding.md R59 to R69): the fields of a command's word, the
decoder as a relation between a word's fields and a command, and the illegal words. -/

namespace Sys2Proof.Machine

/-! ## The word of a command, as a number -/

/-- Fields that do not overlap add up: `y` lies below bit `k`, `x` at or above it. -/
theorem toNat_or_of_lt {x y : Word} (k : Nat) (hx : 2 ^ k ∣ x.toNat) (hy : y.toNat < 2 ^ k) :
    (x ||| y).toNat = x.toNat + y.toNat := by
  obtain ⟨a, ha⟩ := hx
  rw [BitVec.toNat_or, ha, Nat.two_pow_add_eq_or_of_lt hy]

theorem toNat_zeroExtend_word {n : Nat} (hn : n ≤ 64) (x : BitVec n) :
    (x.zeroExtend 64 : Word).toNat = x.toNat :=
  BitVec.toNat_setWidth_of_le hn

/-- A field placed at bit `k` counts in steps of `2 ^ k`. -/
theorem toNat_zeroExtend_shiftLeft {n : Nat} (k : Nat) (hk : n + k ≤ 64) (x : BitVec n) :
    (x.zeroExtend 64 <<< k : Word).toNat = x.toNat * 2 ^ k := by
  have hlt : x.toNat * 2 ^ k < 2 ^ 64 :=
    calc x.toNat * 2 ^ k < 2 ^ n * 2 ^ k := Nat.mul_lt_mul_of_pos_right x.isLt (Nat.two_pow_pos k)
      _ = 2 ^ (n + k) := (Nat.pow_add 2 n k).symm
      _ ≤ 2 ^ 64 := Nat.pow_le_pow_right (by decide) hk
  rw [BitVec.toNat_shiftLeft, toNat_zeroExtend_word (by omega), Nat.shiftLeft_eq, Nat.mod_eq_of_lt hlt]

theorem encode_crcInit_toNat : (encode .crcInit).toNat = 0x1 * 2 ^ 60 := rfl

theorem encode_crcByte_toNat (b : Byte) :
    (encode (.crcByte b)).toNat = 0x2 * 2 ^ 60 + b.toNat := by
  have hb := toNat_zeroExtend_word (by decide) b
  rw [encode, toNat_or_of_lt 60 (by decide) (by omega), hb]
  rfl

theorem encode_crcCompute_toNat (src : BufSrc) (len : U16) :
    (encode (.crcCompute src len)).toNat =
      0x3 * 2 ^ 60 + (bitOfBufSrc src).toNat * 2 ^ 32 + len.toNat := by
  have hsrc := toNat_zeroExtend_shiftLeft 32 (by decide) (bitOfBufSrc src)
  have hlen := toNat_zeroExtend_word (by decide) len
  have hop : (0x3000000000000000#64).toNat = 0x3 * 2 ^ 60 := rfl
  have hhi := toNat_or_of_lt (x := 0x3000000000000000#64) 60 (by decide) (hsrc.trans_lt (by omega))
  rw [encode, toNat_or_of_lt 32 (by omega) (by omega), hhi, hop, hsrc, hlen]

theorem encode_encReadReq_toNat (dev : Byte) (start count : U16) :
    (encode (.encReadReq dev start count)).toNat =
      0x4 * 2 ^ 60 + dev.toNat * 2 ^ 40 + start.toNat * 2 ^ 16 + count.toNat := by
  have hdev := toNat_zeroExtend_shiftLeft 40 (by decide) dev
  have hstart := toNat_zeroExtend_shiftLeft 16 (by decide) start
  have hcount := toNat_zeroExtend_word (by decide) count
  have hop : (0x4000000000000000#64).toNat = 0x4 * 2 ^ 60 := rfl
  have hhi := toNat_or_of_lt (x := 0x4000000000000000#64) 60 (by decide) (hdev.trans_lt (by omega))
  have hmid := toNat_or_of_lt (x := 0x4000000000000000#64 ||| dev.zeroExtend 64 <<< 40) 40 (by omega)
    (hstart.trans_lt (by omega))
  rw [encode, toNat_or_of_lt 16 (by omega) (by omega), hmid, hhi, hop, hdev, hstart, hcount]

theorem encode_rxReadExact_toNat (deadline : U32) (len : U16) :
    (encode (.rxReadExact deadline len)).toNat =
      0x5 * 2 ^ 60 + deadline.toNat * 2 ^ 16 + len.toNat := by
  have hdeadline := toNat_zeroExtend_shiftLeft 16 (by decide) deadline
  have hlen := toNat_zeroExtend_word (by decide) len
  have hop : (0x5000000000000000#64).toNat = 0x5 * 2 ^ 60 := rfl
  have hhi := toNat_or_of_lt (x := 0x5000000000000000#64) 60 (by decide)
    (hdeadline.trans_lt (by omega))
  rw [encode, toNat_or_of_lt 16 (by omega) (by omega), hhi, hop, hdeadline, hlen]

theorem encode_decFloat32_toNat (off : U16) :
    (encode (.decFloat32 off)).toNat = 0x6 * 2 ^ 60 + off.toNat := by
  have hoff := toNat_zeroExtend_word (by decide) off
  rw [encode, toNat_or_of_lt 60 (by decide) (by omega), hoff]
  rfl

theorem encode_decReading_toNat : (encode .decReading).toNat = 0x7 * 2 ^ 60 := rfl

/-! ## The decoder as a relation (R69) -/

/-- The rows of R69, each with its opcode, its reserved bits and its operand fields; every other word is
illegal. -/
inductive DecodesTo (w : Word) : Option Instr → Prop
  | crcInit (hop : w.extractLsb 63 60 = 0x1#4) (hres : w.extractLsb 59 0 = 0#60) :
      DecodesTo w (some .crcInit)
  | crcByte {b : Byte} (hop : w.extractLsb 63 60 = 0x2#4) (hres : w.extractLsb 59 8 = 0#52)
      (hb : w.extractLsb 7 0 = b) : DecodesTo w (some (.crcByte b))
  | crcCompute {src : BufSrc} {len : U16} (hop : w.extractLsb 63 60 = 0x3#4)
      (hres : w.extractLsb 59 33 = 0#27 ∧ w.extractLsb 31 16 = 0#16)
      (hsrc : w.extractLsb 32 32 = bitOfBufSrc src) (hlen : w.extractLsb 15 0 = len) :
      DecodesTo w (some (.crcCompute src len))
  | encReadReq {dev : Byte} {start count : U16} (hop : w.extractLsb 63 60 = 0x4#4)
      (hres : w.extractLsb 59 48 = 0#12 ∧ w.extractLsb 39 32 = 0#8) (hdev : w.extractLsb 47 40 = dev)
      (hstart : w.extractLsb 31 16 = start) (hcount : w.extractLsb 15 0 = count) :
      DecodesTo w (some (.encReadReq dev start count))
  | rxReadExact {deadline : U32} {len : U16} (hop : w.extractLsb 63 60 = 0x5#4)
      (hres : w.extractLsb 59 48 = 0#12) (hdeadline : w.extractLsb 47 16 = deadline)
      (hlen : w.extractLsb 15 0 = len) : DecodesTo w (some (.rxReadExact deadline len))
  | decFloat32 {off : U16} (hop : w.extractLsb 63 60 = 0x6#4) (hres : w.extractLsb 59 16 = 0#44)
      (hoff : w.extractLsb 15 0 = off) : DecodesTo w (some (.decFloat32 off))
  | decReading (hop : w.extractLsb 63 60 = 0x7#4) (hres : w.extractLsb 59 0 = 0#60) :
      DecodesTo w (some .decReading)
  | illegal (h : ReservedWord w) : DecodesTo w none

theorem bitOfBufSrc_bufSrcOfBit (b : BitVec 1) : bitOfBufSrc (bufSrcOfBit b) = b := by
  obtain rfl | rfl := BitVec.eq_zero_or_eq_one b <;> rfl

theorem bufSrcOfBit_bitOfBufSrc (src : BufSrc) : bufSrcOfBit (bitOfBufSrc src) = src := by
  cases src <;> rfl

/-- Every word meets the row that `decode` finds: the decoder's branches, in order. -/
theorem decodesTo_decode (w : Word) : DecodesTo w (decode w) := by
  unfold decode
  simp only
  split_ifs with h1 r1 h2 r2 h3 r3 h4 r4 h5 r5 h6 r6 h7 r7
  · exact .crcInit h1 r1
  · exact .illegal (by simp [ReservedWord, h1, r1])
  · exact .crcByte h2 r2 rfl
  · exact .illegal (by simp [ReservedWord, h2, r2])
  · exact .crcCompute h3 r3 (bitOfBufSrc_bufSrcOfBit _).symm rfl
  · exact .illegal (by simp [ReservedWord, h3, not_and_or.1 r3])
  · exact .encReadReq h4 r4 rfl rfl rfl
  · exact .illegal (by simp [ReservedWord, h4, not_and_or.1 r4])
  · exact .rxReadExact h5 r5 rfl rfl
  · exact .illegal (by simp [ReservedWord, h5, r5])
  · exact .decFloat32 h6 r6 rfl
  · exact .illegal (by simp [ReservedWord, h6, r6])
  · exact .decReading h7 r7
  · exact .illegal (by simp [ReservedWord, h7, r7])
  · refine .illegal (.inl ?_)
    rw [← BitVec.toNat_inj] at *
    simp only [BitVec.toNat_ofNat] at *
    omega

theorem decode_of_reservedWord {w : Word} (h : ReservedWord w) : decode w = none := by
  obtain (hop | hhigh) | ⟨hop, hres⟩ | ⟨hop, hres⟩ | ⟨hop, hres⟩ | ⟨hop, hres⟩ | ⟨hop, hres⟩ |
    ⟨hop, hres⟩ | ⟨hop, hres⟩ := h
  case inl.inl => simp [decode, hop]
  case inl.inr =>
    have hne (k : BitVec 4) (hk : k.toNat < 8) : w.extractLsb 63 60 ≠ k := by
      rintro rfl
      exact absurd hhigh (Nat.not_le.2 hk)
    simp [decode, hne]
  case inr.inr.inr.inl => simp [decode, hop, not_and_or.2 hres]
  case inr.inr.inr.inr.inl => simp [decode, hop, not_and_or.2 hres]
  all_goals simp [decode, hop, hres]

theorem decode_eq_iff {w : Word} {o : Option Instr} : decode w = o ↔ DecodesTo w o := by
  constructor
  · rintro rfl
    exact decodesTo_decode w
  · intro h
    cases h with
    | crcInit hop hres => simp [decode, hop, hres]
    | crcByte hop hres hb => simp [decode, hop, hres, hb]
    | crcCompute hop hres hsrc hlen => simp [decode, hop, hres, hsrc, hlen, bufSrcOfBit_bitOfBufSrc]
    | encReadReq hop hres hdev hstart hcount => simp [decode, hop, hres, hdev, hstart, hcount]
    | rxReadExact hop hres hdeadline hlen => simp [decode, hop, hres, hdeadline, hlen]
    | decFloat32 hop hres hoff => simp [decode, hop, hres, hoff]
    | decReading hop hres => simp [decode, hop, hres]
    | illegal h => exact decode_of_reservedWord h

/-! ## A command's word is the one word that meets the command's row (R61 to R67) -/

/-- A field of a word, as a number. -/
theorem extractLsb_eq_iff {w : Word} {hi lo : Nat} {c : BitVec (hi - lo + 1)} :
    w.extractLsb hi lo = c ↔ w.toNat / 2 ^ lo % 2 ^ (hi - lo + 1) = c.toNat := by
  rw [← BitVec.toNat_inj, BitVec.extractLsb_toNat, Nat.shiftRight_eq_div_pow]

/-- The word of a command holds its opcode, its operands, and zeros between them. -/
theorem decodesTo_encode (i : Instr) : DecodesTo (encode i) (some i) := by
  cases i with
  | crcInit =>
    constructor <;> rw [extractLsb_eq_iff, encode_crcInit_toNat] <;> rfl
  | crcByte b =>
    constructor <;> simp only [extractLsb_eq_iff, encode_crcByte_toNat, BitVec.toNat_ofNat] <;> omega
  | crcCompute src len =>
    refine .crcCompute ?_ ⟨?_, ?_⟩ ?_ ?_ <;>
      simp only [extractLsb_eq_iff, encode_crcCompute_toNat, BitVec.toNat_ofNat] <;> omega
  | encReadReq dev start count =>
    refine .encReadReq ?_ ⟨?_, ?_⟩ ?_ ?_ ?_ <;>
      simp only [extractLsb_eq_iff, encode_encReadReq_toNat, BitVec.toNat_ofNat] <;> omega
  | rxReadExact deadline len =>
    constructor <;> simp only [extractLsb_eq_iff, encode_rxReadExact_toNat, BitVec.toNat_ofNat] <;> omega
  | decFloat32 off =>
    constructor <;> simp only [extractLsb_eq_iff, encode_decFloat32_toNat, BitVec.toNat_ofNat] <;> omega
  | decReading =>
    constructor <;> rw [extractLsb_eq_iff, encode_decReading_toNat] <;> rfl

/-- The fields of a command's row are all 64 bits of the word: they fix it as a number. -/
theorem DecodesTo.encode_eq {w : Word} {i : Instr} (h : DecodesTo w (some i)) : encode i = w := by
  apply BitVec.eq_of_toNat_eq
  cases h
  all_goals
    simp only [extractLsb_eq_iff, BitVec.toNat_ofNat] at *
    simp only [encode_crcInit_toNat, encode_crcByte_toNat, encode_crcCompute_toNat,
      encode_encReadReq_toNat, encode_rxReadExact_toNat, encode_decFloat32_toNat,
      encode_decReading_toNat]
    omega

/-- Settles O2: the command's word meets the command's row of R69, and decoding finds the row a word meets. -/
theorem decodeOfEncode : Obligations.DecodeOfEncode := fun i _ =>
  decode_eq_iff.2 (decodesTo_encode i)

/-- Settles O3: a decoded word meets the command's row, whose fields are all its bits. -/
theorem encodeOfDecode : Obligations.EncodeOfDecode := fun _ _ h =>
  (decode_eq_iff.1 h).encode_eq

/-! ## Illegal words (R68) -/

theorem illegal_of_decode_eq_none {w : Word} (hw : decode w = none) : Illegal w := by
  intro s rest hinbox
  rw [step_of_inbox_cons hinbox, perform]
  simp only [issue, hw]
  rfl

/-- Settles O5: a word is illegal exactly when `decode` answers nothing, and then the step rejects it. -/
theorem reservedWordsAreRejected : Obligations.ReservedWordsAreRejected := by
  refine ⟨fun w hw => illegal_of_decode_eq_none (decode_of_reservedWord hw),
    illegal_of_decode_eq_none rfl, fun w hw => ?_⟩
  cases hdec : decode w with
  | none =>
    cases decode_eq_iff.1 hdec with
    | illegal hres => exact absurd hres hw
  | some i => exact ⟨i, rfl⟩

end Sys2Proof.Machine
end

section
/-! SUPPORT. The opcode table (spec/opcode_table.json, spec/30_encoding.md R69): a row's mask compares the opcode
and the reserved bits of its command. -/

namespace Sys2Proof.Machine

/-- A row whose mask has its ones in the fields `fs`, each from bit `f.1` down to bit `f.2`, compares those
fields. -/
theorem and_mask_eq_iff (fs : List (Nat × Nat)) {mask pattern : Word}
    (hmask : ∀ i < 64, mask.getLsbD i = true ↔ ∃ f ∈ fs, f.2 ≤ i ∧ i - f.2 ≤ f.1 - f.2)
    (hpattern : pattern &&& mask = pattern) (w : Word) :
    w &&& mask = pattern ↔ ∀ f ∈ fs, w.extractLsb f.1 f.2 = pattern.extractLsb f.1 f.2 := by
  constructor
  · rintro rfl ⟨hi, lo⟩ hf
    refine BitVec.eq_of_getLsbD_eq fun k hk => ?_
    by_cases hbit : lo + k < 64
    · have hone : mask.getLsbD (lo + k) = true := (hmask _ hbit).2 ⟨_, hf, by simp; omega⟩
      simp [hone]
    · simp [BitVec.getLsbD_of_ge _ _ (Nat.not_lt.1 hbit)]
  · intro h
    rw [← hpattern]
    refine BitVec.eq_of_getLsbD_eq fun i hi => ?_
    cases hone : mask.getLsbD i with
    | false => simp [hone]
    | true =>
      obtain ⟨f, hf, hlo, hhi⟩ := (hmask i hi).1 hone
      simpa [hhi, Nat.add_sub_cancel' hlo, hone] using congrArg (·.getLsbD (i - f.2)) (h f hf)

theorem crcInit_row_iff (w : Word) : w &&& 0xFFFFFFFFFFFFFFFF#64 = 0x1000000000000000#64 ↔
    w.extractLsb 63 60 = 0x1#4 ∧ w.extractLsb 59 0 = 0#60 := by
  rw [and_mask_eq_iff [(63, 60), (59, 0)] (by decide) (by decide)]
  simp

theorem crcByte_row_iff (w : Word) : w &&& 0xFFFFFFFFFFFFFF00#64 = 0x2000000000000000#64 ↔
    w.extractLsb 63 60 = 0x2#4 ∧ w.extractLsb 59 8 = 0#52 := by
  rw [and_mask_eq_iff [(63, 60), (59, 8)] (by decide) (by decide)]
  simp

theorem crcCompute_row_iff (w : Word) : w &&& 0xFFFFFFFEFFFF0000#64 = 0x3000000000000000#64 ↔
    w.extractLsb 63 60 = 0x3#4 ∧ w.extractLsb 59 33 = 0#27 ∧ w.extractLsb 31 16 = 0#16 := by
  rw [and_mask_eq_iff [(63, 60), (59, 33), (31, 16)] (by decide) (by decide)]
  simp

theorem encReadReq_row_iff (w : Word) : w &&& 0xFFFF00FF00000000#64 = 0x4000000000000000#64 ↔
    w.extractLsb 63 60 = 0x4#4 ∧ w.extractLsb 59 48 = 0#12 ∧ w.extractLsb 39 32 = 0#8 := by
  rw [and_mask_eq_iff [(63, 60), (59, 48), (39, 32)] (by decide) (by decide)]
  simp

theorem rxReadExact_row_iff (w : Word) : w &&& 0xFFFF000000000000#64 = 0x5000000000000000#64 ↔
    w.extractLsb 63 60 = 0x5#4 ∧ w.extractLsb 59 48 = 0#12 := by
  rw [and_mask_eq_iff [(63, 60), (59, 48)] (by decide) (by decide)]
  simp

theorem decFloat32_row_iff (w : Word) : w &&& 0xFFFFFFFFFFFF0000#64 = 0x6000000000000000#64 ↔
    w.extractLsb 63 60 = 0x6#4 ∧ w.extractLsb 59 16 = 0#44 := by
  rw [and_mask_eq_iff [(63, 60), (59, 16)] (by decide) (by decide)]
  simp

theorem decReading_row_iff (w : Word) : w &&& 0xFFFFFFFFFFFFFFFF#64 = 0x7000000000000000#64 ↔
    w.extractLsb 63 60 = 0x7#4 ∧ w.extractLsb 59 0 = 0#60 := by
  rw [and_mask_eq_iff [(63, 60), (59, 0)] (by decide) (by decide)]
  simp

/-- A word that meets no row of R69 matches no row of the opcode table. -/
theorem not_matchesWord_of_reservedWord {w : Word} (h : ReservedWord w) {r : OpcodeRow}
    (hr : r ∈ opcodeTable) : ¬ r.matchesWord w = true := by
  simp only [opcodeTable, List.mem_cons, List.not_mem_nil, or_false] at hr
  rw [OpcodeRow.matchesWord, beq_iff_eq]
  obtain rfl | rfl | rfl | rfl | rfl | rfl | rfl := hr
  all_goals
    simp only [crcInit_row_iff, crcByte_row_iff, crcCompute_row_iff, encReadReq_row_iff,
      rxReadExact_row_iff, decFloat32_row_iff, decReading_row_iff]
    rintro ⟨hop, hres⟩
    simp [ReservedWord, hop, hres] at h

/-- The opcode leaves at most one row, and the reserved bits decide whether it matches. -/
theorem filter_matchesWord (w : Word) :
    (opcodeTable.filter fun r => r.matchesWord w).map (·.mnemonic) =
      (decode w).toList.map Instr.mnemonic := by
  cases hdec : decode w with
  | none =>
    cases decode_eq_iff.1 hdec with
    | illegal h =>
      rw [List.filter_eq_nil_iff.2 fun r hr => not_matchesWord_of_reservedWord h hr]
      rfl
  | some i =>
    cases decode_eq_iff.1 hdec
    all_goals
      simp [opcodeTable, OpcodeRow.matchesWord, crcInit_row_iff, crcByte_row_iff,
        crcCompute_row_iff, encReadReq_row_iff, rxReadExact_row_iff, decFloat32_row_iff,
        decReading_row_iff, Instr.mnemonic, *]

/-- Field `src` is the one bit 32 (R63). -/
theorem extractLsb_src (w : Word) :
    w.extractLsb 32 32 = bitOfBufSrc (if w.getLsbD 32 then .rx else .tx) := by
  ext k hk
  obtain rfl : k = 0 := by omega
  cases hbit : w.getLsbD 32 <;> simp [hbit, bitOfBufSrc, ← BitVec.getLsbD_eq_getElem]

/-- Settles O4: each row of R69 is a case of `DecodesTo`, and the opcode table's masks test the same opcodes
and reserved bits. -/
theorem decodeFollowsOpcodeMap : Obligations.DecodeFollowsOpcodeMap := by
  intro w
  have hsrc := extractLsb_src w
  exact ⟨fun hop hres => decode_eq_iff.2 (.crcInit hop hres),
    fun hop hres => decode_eq_iff.2 (.crcByte hop hres rfl),
    fun hop hhi hlo => decode_eq_iff.2 (.crcCompute hop ⟨hhi, hlo⟩ hsrc rfl),
    fun hop hhi hlo => decode_eq_iff.2 (.encReadReq hop ⟨hhi, hlo⟩ rfl rfl rfl),
    fun hop hres => decode_eq_iff.2 (.rxReadExact hop hres rfl rfl),
    fun hop hres => decode_eq_iff.2 (.decFloat32 hop hres rfl),
    fun hop hres => decode_eq_iff.2 (.decReading hop hres),
    decode_of_reservedWord, filter_matchesWord w⟩

end Sys2Proof.Machine
end

section
/-! SUPPORT. The request frame as the host reads it after a done ENC_READ_REQ (spec/30_encoding.md R72, R74;
spec/10_state.md R36). -/

namespace Sys2Proof.Machine

/-! ## Bytes as read-port values -/

theorem hiByte_zeroExtend (v : U16) : (hiByte v).zeroExtend 32 = BitVec.ofNat 32 (v.toNat / 256) := by
  rw [← hiByte_toNat, BitVec.ofNat_toNat, BitVec.zeroExtend]

theorem loByte_zeroExtend (v : U16) : (loByte v).zeroExtend 32 = BitVec.ofNat 32 (v.toNat % 256) := by
  rw [← loByte_toNat, BitVec.ofNat_toNat, BitVec.zeroExtend]

/-- The response length fits RESP_LEN, since no response longer than the largest buffer is asked for. -/
theorem responseLength_lt {s : State} (hcfg : s.cfg.wf) {count : U16}
    (hlen : responseLength count ≤ s.cfg.rxBufBytes) : responseLength count < 2 ^ 16 := by
  obtain ⟨-, hbuf, -⟩ := hcfg
  omega

/-- Index `0x010 + k` shows byte `k` of the frame that was just built. -/
theorem readPort_frame {s t : State} {dev : Byte} {start count : U16} (hvalid : t.txValid = true)
    (htx : t.tx = memWrite s.tx 0 (requestFrame dev start count)) {k : Nat} {b : Byte}
    (hb : (requestFrame dev start count)[k]? = some b) {idx : Index} (hidx : idx.toNat = 0x010 + k) :
    readPort t idx = .ok (b.zeroExtend 32) := by
  have hk : k < 8 := (List.getElem?_eq_some_iff.1 hb).1
  have hget : memGet t.tx k = some b := by
    rw [htx, memGet_memWrite, if_pos ⟨Nat.zero_le k, by simpa [requestFrame_length] using hk⟩]
    exact hb
  exact readPort_ok (portMap_tx hidx hk) (by simp [portValue, hvalid, hget])

/-- Settles O16: the done command wrote `requestFrame`, and each index of the port shows one of its bytes. -/
theorem frameOnTheReadPort : Obligations.FrameOnTheReadPort := by
  intro s t dev start count hcfg hdev hlen hexec
  obtain ⟨hrej, -⟩ | ⟨-, hfits, rfl⟩ := execEncReadReq_cases hexec
  · obtain hzero | hlong := hrej
    · exact absurd hzero hdev
    · exact absurd hlen (Nat.not_le.2 hlong)
  · rw [← hiByte_zeroExtend, ← hiByte_zeroExtend, ← hiByte_zeroExtend, ← loByte_zeroExtend,
      ← loByte_zeroExtend, ← loByte_zeroExtend]
    refine ⟨readPort_frame rfl rfl (k := 0) rfl rfl, readPort_frame rfl rfl (k := 1) rfl rfl,
      readPort_frame rfl rfl (k := 2) rfl rfl, readPort_frame rfl rfl (k := 3) rfl rfl,
      readPort_frame rfl rfl (k := 4) rfl rfl, readPort_frame rfl rfl (k := 5) rfl rfl,
      readPort_frame rfl rfl (k := 6) rfl rfl, readPort_frame rfl rfl (k := 7) rfl rfl, rfl, ?_⟩
    refine readPort_ok (r := .respLen) rfl ?_
    rw [← responseLength]
    have hwidth : (BitVec.ofNat 16 (responseLength count)).setWidth 32 =
        BitVec.ofNat 32 (responseLength count) :=
      BitVec.setWidth_ofNat_of_le_of_lt (by decide) (responseLength_lt hcfg hfits)
    simp [portValue, hwidth]

end Sys2Proof.Machine
end

section
/-! SUPPORT. The assembler (spec/30_encoding.md R70, R71): which operands fit their fields, and the word of
each line. -/

namespace Sys2Proof.Machine

/-! ## Operands -/

theorem fitField_of_lt {bits n : Nat} (h : n < 2 ^ bits) : fitField bits n = some (BitVec.ofNat bits n) :=
  if_pos h

theorem fitField_of_le {bits n : Nat} (h : 2 ^ bits ≤ n) : fitField bits n = none :=
  if_neg (Nat.not_lt.2 h)

theorem fitField_toNat {bits : Nat} (v : BitVec bits) : fitField bits v.toNat = some v := by
  rw [fitField_of_lt v.isLt, BitVec.ofNat_toNat, BitVec.setWidth_eq]

theorem assemble_encRdreq (dev start count : Nat) : assemble (.encRdreq dev start count) =
    (fitField 8 dev).bind fun d => (fitField 16 start).bind fun s =>
      (fitField 16 count).map (.encReadReq d s) := by
  rw [assemble]
  cases fitField 8 dev <;> cases fitField 16 start <;> cases fitField 16 count <;> rfl

theorem assemble_rxReadexact (len deadline : Nat) : assemble (.rxReadexact len deadline) =
    (fitField 32 deadline).bind fun d => (fitField 16 len).map (.rxReadExact d) := by
  rw [assemble]
  cases fitField 32 deadline <;> cases fitField 16 len <;> rfl

/-! ## A command's word from numbers that fit (R70) -/

theorem zeroExtend_ofNat_of_lt {bits n : Nat} (hbits : bits ≤ 64) (hn : n < 2 ^ bits) :
    (BitVec.ofNat bits n).zeroExtend 64 = BitVec.ofNat 64 n :=
  BitVec.setWidth_ofNat_of_le_of_lt hbits hn

theorem ofNat_shiftLeft (n k : Nat) : BitVec.ofNat 64 (n <<< k) = BitVec.ofNat 64 n <<< k := by
  refine BitVec.eq_of_toNat_eq ?_
  rw [BitVec.toNat_shiftLeft, BitVec.toNat_ofNat, BitVec.toNat_ofNat, Nat.shiftLeft_eq, Nat.shiftLeft_eq,
    Nat.mod_mul_mod]

theorem assembleWord_crcByte (b : Nat) : assembleWord (.crcByte b) =
    if b ≤ 255 then some (BitVec.ofNat 64 (0x2000000000000000 ||| b)) else none := by
  rw [assembleWord, assemble]
  split
  next hb =>
    have hb : b < 2 ^ 8 := by omega
    rw [fitField_of_lt hb, Option.map_some, Option.map_some, encode,
      zeroExtend_ofNat_of_lt (by decide) hb, BitVec.ofNat_or]
  next hb =>
    rw [fitField_of_le (by omega), Option.map_none, Option.map_none]

theorem assembleWord_crcCompute (src : BufSrc) (len : Nat) : assembleWord (.crcCompute src len) =
    if len ≤ 65535 then
      some (0x3000000000000000#64 ||| (bitOfBufSrc src).zeroExtend 64 <<< 32 ||| BitVec.ofNat 64 len)
    else none := by
  rw [assembleWord, assemble]
  split
  next hlen =>
    have hlen : len < 2 ^ 16 := by omega
    rw [fitField_of_lt hlen, Option.map_some, Option.map_some, encode,
      zeroExtend_ofNat_of_lt (by decide) hlen]
  next hlen =>
    rw [fitField_of_le (by omega), Option.map_none, Option.map_none]

theorem assembleWord_encRdreq (dev start count : Nat) : assembleWord (.encRdreq dev start count) =
    if dev ≤ 255 ∧ start ≤ 65535 ∧ count ≤ 65535 then
      some (BitVec.ofNat 64 (0x4000000000000000 ||| dev <<< 40 ||| start <<< 16 ||| count))
    else none := by
  rw [assembleWord, assemble_encRdreq]
  split
  next h =>
    obtain ⟨hdev, hstart, hcount⟩ : dev < 2 ^ 8 ∧ start < 2 ^ 16 ∧ count < 2 ^ 16 := by omega
    simp only [fitField_of_lt, hdev, hstart, hcount, Option.bind_some, Option.map_some, encode]
    rw [zeroExtend_ofNat_of_lt (by decide) hdev, zeroExtend_ofNat_of_lt (by decide) hstart,
      zeroExtend_ofNat_of_lt (by decide) hcount]
    simp only [BitVec.ofNat_or, ofNat_shiftLeft]
  next h =>
    obtain hdev | hstart | hcount : 2 ^ 8 ≤ dev ∨ 2 ^ 16 ≤ start ∨ 2 ^ 16 ≤ count := by omega
    · simp [fitField_of_le hdev]
    · simp [fitField_of_le hstart]
    · simp [fitField_of_le hcount]

theorem assembleWord_rxReadexact (len deadline : Nat) : assembleWord (.rxReadexact len deadline) =
    if len ≤ 65535 ∧ deadline ≤ 2 ^ 32 - 1 then
      some (BitVec.ofNat 64 (0x5000000000000000 ||| deadline <<< 16 ||| len))
    else none := by
  rw [assembleWord, assemble_rxReadexact]
  split
  next h =>
    obtain ⟨hlen, hdeadline⟩ : len < 2 ^ 16 ∧ deadline < 2 ^ 32 := by omega
    simp only [fitField_of_lt, hlen, hdeadline, Option.bind_some, Option.map_some, encode]
    rw [zeroExtend_ofNat_of_lt (by decide) hdeadline, zeroExtend_ofNat_of_lt (by decide) hlen]
    simp only [BitVec.ofNat_or, ofNat_shiftLeft]
  next h =>
    obtain hlen | hdeadline : 2 ^ 16 ≤ len ∨ 2 ^ 32 ≤ deadline := by omega
    · simp [fitField_of_le hlen]
    · simp [fitField_of_le hdeadline]

theorem assembleWord_decF32 (off : Nat) : assembleWord (.decF32 off) =
    if off ≤ 65535 then some (BitVec.ofNat 64 (0x6000000000000000 ||| off)) else none := by
  rw [assembleWord, assemble]
  split
  next hoff =>
    have hoff : off < 2 ^ 16 := by omega
    rw [fitField_of_lt hoff, Option.map_some, Option.map_some, encode,
      zeroExtend_ofNat_of_lt (by decide) hoff, BitVec.ofNat_or]
  next hoff =>
    rw [fitField_of_le (by omega), Option.map_none, Option.map_none]

/-- Settles O52: line by line; an operand fits its field exactly below the field's bound, and the word of the
fitted operands is the table's. -/
theorem assemblerFollowsTheSyntaxTable : Obligations.AssemblerFollowsTheSyntaxTable := by
  refine ⟨rfl, rfl, assembleWord_crcByte, fun len => ?_, fun len => ?_, assembleWord_encRdreq,
    assembleWord_rxReadexact, assembleWord_decF32⟩
  all_goals
    rw [assembleWord_crcCompute, BitVec.ofNat_or]
    rfl

/-! ## The read of a requested response (R71, R74, R86) -/

/-- Settles O53: the done command put `5 + 2 * count` into RESP_LEN, the length the expansion names; it fits
the field, as the deadline does. -/
theorem readrespReadsTheRequestedLength : Obligations.ReadrespReadsTheRequestedLength := by
  intro s t dev start count deadline hcfg hexec herr
  obtain ⟨-, rfl⟩ | ⟨-, hfits, rfl⟩ := execEncReadReq_cases hexec
  · exact absurd herr nofun
  · refine ⟨_, rfl, ?_⟩
    have hlen : fitField 16 (5 + 2 * count.toNat) = some (BitVec.ofNat 16 (responseLength count)) :=
      fitField_of_lt (responseLength_lt hcfg hfits)
    simp [expandPseudo, assembleAll, assembleWord, assemble_rxReadexact, hlen, fitField_toNat]

end Sys2Proof.Machine
end

section
/-! SUPPORT. The CRC unit (spec/40_checksum.md): the shift register as arithmetic, the zero residue, what
CRC_COMPUTE covers, and the streaming form. -/

namespace Sys2Proof.Machine

/-! ## The delivered word (R68, R69) -/

/-- The word of a command delivers it. -/
theorem delivers_encode (i : Instr) : Delivers (encode i) i :=
  stepRunsDecodedCommand _ _ (decode_eq_iff.2 (decodesTo_encode i))

/-- A word with a reserved opcode or a reserved bit set is rejected. -/
theorem illegal_of_reservedWord {w : Word} (h : ReservedWord w) : Illegal w :=
  reservedWordsAreRejected.1 w h

/-! ## The commands that always complete (R81, R82) -/

theorem exec_crcInit (s : State) : exec .crcInit s = .next { s with crc := crcInitial, err := .none } := rfl

theorem exec_crcByte (s : State) (b : Byte) :
    exec (.crcByte b) s = .next { s with crc := byteStep s.crc b, err := .none } := rfl

/-- Settles O9: the word is `encode`'s, and a reserved bit makes a word of opcode 1 a reserved word. -/
theorem crcInitLoadsInitialValue : Obligations.CrcInitLoadsInitialValue :=
  ⟨delivers_encode .crcInit, fun _ hop hres => illegal_of_reservedWord (.inr (.inl ⟨hop, hres⟩)),
    exec_crcInit⟩

/-- Settles O10: the word is `encode`'s, and the two values are one byte step each. -/
theorem crcByteFoldsTheByte : Obligations.CrcByteFoldsTheByte :=
  ⟨fun b => delivers_encode (.crcByte b),
    fun _ hop hres => illegal_of_reservedWord (.inr (.inr (.inl ⟨hop, hres⟩))),
    fun s b => ⟨exec_crcByte s b, by decide, by decide⟩⟩

/-! ## The shift register (R78, R79, R80) -/

theorem bitStep_toNat (c : U16) : (bitStep c).toNat =
    if c.toNat % 2 = 1 then (c.toNat / 2) ^^^ 0xA001 else c.toNat / 2 := by
  have hshift : (c >>> 1).toNat = c.toNat / 2 := by simp [Nat.shiftRight_eq_div_pow]
  have hbit : (c.getLsbD 0 = true) = (c.toNat % 2 = 1) := by simp [BitVec.getLsbD]
  simp only [bitStep, hbit]
  split
  · rw [BitVec.toNat_xor, hshift, crcPoly, BitVec.toNat_ofNat]
  · exact hshift

theorem bitStep_of_even {c : U16} (h : c.getLsbD 0 = false) : bitStep c = c >>> 1 :=
  if_neg (Bool.eq_false_iff.1 h)

/-- The byte enters at the low bits; eight bit steps follow. -/
theorem byteStep_eq_iterate (c : U16) (b : Byte) :
    byteStep c b = bitStep^[8] (c ^^^ b.zeroExtend 16) := rfl

theorem crc16_append (bs cs : List Byte) : crc16 (bs ++ cs) = cs.foldl byteStep (crc16 bs) :=
  List.foldl_append

/-- Settles O12: each clause is one equation of the shift register. -/
theorem crcFunctionIsReflectedA001 : Obligations.CrcFunctionIsReflectedA001 := by
  refine ⟨bitStep_toNat, fun c b => ?_, rfl, fun bs b => crc16_append bs [b]⟩
  have hxor : BitVec.ofNat 16 (c.toNat ^^^ b.toNat) = c ^^^ b.zeroExtend 16 := by
    simp [BitVec.ofNat_xor]
  rw [hxor, byteStep]

/-! ## The zero residue (R84) -/

/-- While the bits that leave are 0, the polynomial never enters: the register only shifts. -/
theorem iterate_bitStep_of_low_zero (k : Nat) {c : U16} (h : ∀ i < k, c.getLsbD i = false) :
    bitStep^[k] c = c >>> k := by
  induction k generalizing c with
  | zero => simp
  | succ k ih =>
    have hlow : ∀ i < k, (c >>> 1).getLsbD i = false := fun i hi => by
      simpa using h (1 + i) (by omega)
    rw [Function.iterate_succ_apply, bitStep_of_even (h 0 (by omega)), ih hlow,
      ← BitVec.shiftRight_add, Nat.add_comm]

/-- The register's own low byte clears the bits that leave. -/
theorem byteStep_loByte (c : U16) : byteStep c (loByte c) = c >>> 8 := by
  have hbit (i : Nat) : (c ^^^ (loByte c).zeroExtend 16).getLsbD i =
      if i < 8 then false else c.getLsbD i := by
    split
    · simp [loByte, show i < 16 by omega, show i ≤ 7 by omega]
    · simp [loByte, show ¬ i ≤ 7 by omega]
  rw [byteStep_eq_iterate, iterate_bitStep_of_low_zero 8 fun i hi => by rw [hbit, if_pos hi]]
  refine BitVec.eq_of_getLsbD_eq fun i _ => ?_
  rw [BitVec.getLsbD_ushiftRight, hbit, if_neg (by omega), BitVec.getLsbD_ushiftRight]

/-- The high byte then clears the whole register. -/
theorem byteStep_hiByte (c : U16) : byteStep (c >>> 8) (hiByte c) = 0#16 := by
  have hhi : (hiByte c).zeroExtend 16 = c >>> 8 := by
    refine BitVec.eq_of_toNat_eq ?_
    rw [BitVec.toNat_setWidth_of_le (by decide), hiByte_toNat, BitVec.toNat_ushiftRight,
      Nat.shiftRight_eq_div_pow]
  rw [byteStep_eq_iterate, hhi, BitVec.xor_self, iterate_bitStep_of_low_zero 8 (by simp)]
  simp

theorem crc16_append_own_crc (bs : List Byte) :
    crc16 (bs ++ [loByte (crc16 bs), hiByte (crc16 bs)]) = 0#16 := by
  rw [crc16_append, List.foldl_cons, byteStep_loByte, List.foldl_cons, byteStep_hiByte, List.foldl_nil]

/-- Settles O13: the low byte shifts the register right by 8, and the high byte cancels what is left. -/
theorem crcAppendedChecksToZero : Obligations.CrcAppendedChecksToZero := crc16_append_own_crc

/-! ## CRC_COMPUTE (R83) -/

theorem exec_crcCompute_busy {s : State} (len : U16) (hb : s.rxState = .busy) :
    exec (.crcCompute .rx len) s = .next { s with err := .busy, errSticky := true } :=
  if_pos ⟨rfl, hb⟩

theorem exec_crcCompute_badRange {s : State} {src : BufSrc} {len : U16}
    (hb : ¬ (src = .rx ∧ s.rxState = .busy)) (hlen : availBytes src s < len.toNat) :
    exec (.crcCompute src len) s = .next { s with err := .badRange, errSticky := true } := by
  rw [exec, execCrcCompute, if_neg hb, if_pos hlen]
  rfl

/-- Under the invariant the command covers the first `len` bytes the source holds. -/
theorem State.Inv.exec_crcCompute {s : State} (h : s.Inv) {src : BufSrc} {len : U16}
    (hb : ¬ (src = .rx ∧ s.rxState = .busy)) (hlen : len.toNat ≤ availBytes src s) :
    exec (.crcCompute src len) s =
      .next { s with crc := crc16 (((bufferOf src s).map Prod.snd).take len.toNat), err := .none } := by
  rw [exec, execCrcCompute, if_neg hb, if_neg (by omega),
    memRead_of_holdsFirst (h.bufferOf_holdsFirst src) (by omega)]
  rfl

/-- The same, the bytes named one by one. -/
theorem State.Inv.exec_crcCompute_bytes {s : State} (h : s.Inv) {src : BufSrc} {len : U16}
    (hb : ¬ (src = .rx ∧ s.rxState = .busy)) (hlen : len.toNat ≤ availBytes src s) :
    ∃ bytes : List Byte, bytes.length = len.toNat ∧
      (∀ k < len.toNat, memGet (bufferOf src s) k = bytes[k]?) ∧
      exec (.crcCompute src len) s = .next { s with crc := crc16 bytes, err := .none } := by
  have hread := memRead_of_holdsFirst (h.bufferOf_holdsFirst src) (a := 0) (k := len.toNat) (by omega)
  obtain ⟨hlength, hget⟩ := (memRead_eq_some_iff ..).1 hread
  exact ⟨_, hlength, by simpa using hget, h.exec_crcCompute hb hlen⟩

/-- Settles O11: clause by clause, in the order of R83's checks. -/
theorem crcComputeCoversTheBuffer : Obligations.CrcComputeCoversTheBuffer := by
  refine ⟨fun len => ⟨delivers_encode (.crcCompute .tx len), delivers_encode (.crcCompute .rx len)⟩,
    fun w hop hres => illegal_of_reservedWord (.inr (.inr (.inr (.inl ⟨hop, hres⟩)))),
    fun s len hb => exec_crcCompute_busy len hb,
    fun s len hlen => exec_crcCompute_badRange nofun hlen,
    fun s len hb hlen => exec_crcCompute_badRange (fun hrx => hb hrx.2) hlen,
    fun s len h hlen => h.exec_crcCompute_bytes (src := .tx) nofun hlen,
    fun s len h hb hlen => h.exec_crcCompute_bytes (src := .rx) (fun hrx => hb hrx.2) hlen⟩

/-- Settles O18: the frame is its body with the body's CRC appended. -/
theorem heldFrameChecks : Obligations.HeldFrameChecks := by
  intro s h hvalid
  obtain ⟨dev, start, count, -, -, hframe, -⟩ := h.tx.frame hvalid
  have havail : availBytes .tx s = 8 := if_pos hvalid
  have hget (k : Nat) : memGet s.tx k = (requestFrame dev start count)[k]? := by
    rw [memGet_of_holdsFirst h.tx.cells, hframe]
  have hcompute {len : U16} (hlen : len.toNat ≤ 8) : exec (.crcCompute .tx len) s =
      .next { s with crc := crc16 ((requestFrame dev start count).take len.toNat), err := .none } := by
    rw [h.exec_crcCompute (src := .tx) nofun (by omega), bufferOf, hframe]
  refine ⟨requestCrc dev start count, hget 6, hget 7, hcompute (by decide), ?_⟩
  rw [← crc16_append_own_crc (requestBody dev start count)]
  exact hcompute (by decide)

/-! ## The streaming form (R71, R82) -/

/-- A run goes on from the state its first step answers. -/
theorem run_succ_of_step {s t : State} (h : step s = .next t) (k : Nat) :
    Host.Core.run Sys2Proof.core (k + 1) s = Host.Core.run Sys2Proof.core k t := by
  simp only [Host.Core.run, Sys2Proof.core, h]

/-- The events that deliver CRC_BYTE for each byte. -/
def byteEvents (bs : List Byte) : List Event := bs.map fun b => .command (encode (.crcByte b))

/-- CRC_BYTE for each byte folds the bytes into the running CRC. -/
theorem run_byteEvents (s : State) (c : U16) (bs : List Byte) (rest : List Event) :
    Host.Core.run Sys2Proof.core bs.length
        { s with inbox := byteEvents bs ++ rest, crc := c, err := .none } =
      .next { s with inbox := rest, crc := bs.foldl byteStep c, err := .none } := by
  induction bs generalizing c with
  | nil => rfl
  | cons b bs ih =>
    have hstep : step { s with inbox := byteEvents (b :: bs) ++ rest, crc := c, err := .none } =
        .next { s with inbox := byteEvents bs ++ rest, crc := byteStep c b, err := .none } :=
      (delivers_encode (.crcByte b) _ _ rfl).trans (exec_crcByte _ b)
    exact (run_succ_of_step hstep bs.length).trans (ih _)

/-- Settles O14: CRC_INIT starts the fold that the CRC_BYTE commands go on with. -/
theorem streamedBytesGiveTheirCrc : Obligations.StreamedBytesGiveTheirCrc := by
  intro s bs rest hinbox
  have hstep : step s = .next { s with inbox := byteEvents bs ++ rest, crc := crcInitial, err := .none } :=
    (delivers_encode .crcInit s _ hinbox).trans (exec_crcInit _)
  exact (run_succ_of_step hstep bs.length).trans
    (run_byteEvents s crcInitial bs rest)

end Sys2Proof.Machine
end

section
/-! SUPPORT. The encoder unit (spec/41_frame_encoder.md R86, R89): the two outcomes of ENC_READ_REQ, and the
transmit buffer after the one that is done. -/

namespace Sys2Proof.Machine

/-! ## The two outcomes (R86) -/

theorem exec_encReadReq_reject {s : State} {dev : Byte} {count : U16} (start : U16)
    (h : dev = 0#8 ∨ s.cfg.rxBufBytes < responseLength count) :
    exec (.encReadReq dev start count) s = .next { s with err := .encReject, errSticky := true } := by
  rw [exec, execEncReadReq]
  by_cases hdev : dev = 0#8
  · exact if_pos hdev
  · rw [if_neg hdev, if_pos (h.resolve_left hdev)]
    rfl

theorem exec_encReadReq_done {s : State} {dev : Byte} {count : U16} (start : U16) (hdev : dev ≠ 0#8)
    (hlen : responseLength count ≤ s.cfg.rxBufBytes) :
    exec (.encReadReq dev start count) s =
      .next { s with
        tx := memWrite s.tx 0 (requestFrame dev start count)
        txValid := true
        respLen := some (BitVec.ofNat 16 (responseLength count))
        crc := requestCrc dev start count
        err := .none } := by
  rw [exec, execEncReadReq, if_neg hdev, if_neg (Nat.not_lt.2 hlen)]
  rfl

/-! ## The transmit buffer -/

/-- The frame is bytes 0 to 7; every other byte is as it was. -/
theorem memGet_memWrite_requestFrame (m : Memory) (dev : Byte) (start count : U16) (i : Nat) :
    memGet (memWrite m 0 (requestFrame dev start count)) i =
      if i < 8 then (requestFrame dev start count)[i]? else memGet m i := by
  simp [memGet_memWrite, requestFrame_length]

/-- Settles O15: the word is `encode`'s, a reserved bit makes a word of opcode 4 a reserved word, and the rest
are the two outcomes; the response length fits its 16 bits because the buffer is no longer than they count. -/
theorem encReadReqBuildsTheFrame : Obligations.EncReadReqBuildsTheFrame := by
  refine ⟨fun dev start count => delivers_encode (.encReadReq dev start count),
    fun w hop hres => illegal_of_reservedWord (.inr (.inr (.inr (.inr (.inl ⟨hop, hres⟩))))),
    fun s dev start count hrej => exec_encReadReq_reject start hrej,
    fun s dev start count hcfg hdev hlen => ?_⟩
  have hfits : (BitVec.ofNat 16 (responseLength count)).toNat = responseLength count :=
    Nat.mod_eq_of_lt (responseLength_lt hcfg hlen)
  exact ⟨_, _, _, hfits, rfl, exec_encReadReq_done start hdev hlen,
    memGet_memWrite_requestFrame s.tx dev start count⟩

/-- Settles O17: below index 8 the buffer holds `requestFrame` of the operands, whatever it held before. -/
theorem frameDependsOnOperandsOnly : Obligations.FrameDependsOnOperandsOnly := by
  intro s s' dev start count hdev hlen hlen'
  refine ⟨_, _, exec_encReadReq_done start hdev hlen, exec_encReadReq_done start hdev hlen',
    fun i hi => ?_, rfl, rfl, rfl⟩
  have hget (m : Memory) : memGet (memWrite m 0 (requestFrame dev start count)) i =
      (requestFrame dev start count)[i]? := by
    rw [memGet_memWrite_requestFrame, if_pos hi]
  refine ⟨(hget s.tx).trans (hget s'.tx).symm, ?_⟩
  rw [hget, List.getElem?_eq_getElem (by rwa [requestFrame_length])]
  rfl

end Sys2Proof.Machine
end

section
/-! SUPPORT. The reader unit (spec/42_frame_reader.md R90 to R101): the three outcomes of RX_READ_EXACT, the
pending request, and what each kind of answer does to a BUSY read. -/

namespace Sys2Proof.Machine

/-! ## The pending request (R31, R91) -/

theorem pendingRequest_of_busy {s : State} (hb : s.rxState = .busy) :
    pendingRequest s = some ⟨missingBytes s, callTimeout s⟩ := if_pos hb

theorem pendingRequest_of_not_busy {s : State} (hb : s.rxState ≠ .busy) : pendingRequest s = none :=
  if_neg hb

theorem pendingRequest_eq_some_iff {s : State} {r : Request} :
    pendingRequest s = some r ↔ s.rxState = .busy ∧ r = ⟨missingBytes s, callTimeout s⟩ := by
  by_cases hb : s.rxState = .busy
  · simp [pendingRequest_of_busy hb, hb, eq_comm]
  · simp [pendingRequest_of_not_busy hb, hb]

theorem callTimeout_of_no_deadline {s : State} (hd : s.rxDeadline = 0#32) :
    callTimeout s = s.cfg.perCallTimeoutMs := if_pos hd

theorem callTimeout_of_deadline {s : State} (hd : s.rxDeadline ≠ 0#32) :
    callTimeout s = min s.cfg.perCallTimeoutMs (s.rxDeadline.toNat - s.rxElapsed.toNat) := if_neg hd

/-- Settles O20: the invariant says that a BUSY read has bytes missing, and time left when it has a
deadline. -/
theorem pendingRequestWhileBusy : Obligations.PendingRequestWhileBusy := by
  refine fun s h => ⟨pendingRequest_of_not_busy, fun hb => ⟨_, pendingRequest_of_busy hb, rfl, ?_⟩⟩
  obtain ⟨-, -, hcall⟩ := h.cfg
  have hmissing : 1 ≤ missingBytes s := Nat.sub_pos_of_lt (h.rx.busyMissing hb)
  by_cases hd : s.rxDeadline = 0#32
  · have ht : callTimeout s = 1000 := (callTimeout_of_no_deadline hd).trans hcall
    exact ⟨fun _ => ht, absurd hd, hmissing, by simp [ht]⟩
  · have ht := callTimeout_of_deadline hd
    rw [hcall] at ht
    have hleft := (h.rx.busyTime hb).resolve_left hd
    exact ⟨fun hz => absurd hz hd, fun _ => ht, hmissing, by simp only [ht]; omega⟩

/-! ## RX_READ_EXACT (R90) -/

theorem exec_rxReadExact_busy {s : State} (deadline : U32) (len : U16) (hb : s.rxState = .busy) :
    exec (.rxReadExact deadline len) s = .next { s with err := .busy, errSticky := true } := if_pos hb

theorem exec_rxReadExact_reject {s : State} (deadline : U32) {len : U16} (hb : s.rxState ≠ .busy)
    (hlen : s.cfg.rxBufBytes < len.toNat) :
    exec (.rxReadExact deadline len) s = .next { s with err := .rxReject, errSticky := true } := by
  rw [exec, execRxReadExact, if_neg hb, if_pos hlen]
  rfl

theorem exec_rxReadExact_done {s : State} (deadline : U32) {len : U16} (hb : s.rxState ≠ .busy)
    (hlen : len.toNat ≤ s.cfg.rxBufBytes) :
    exec (.rxReadExact deadline len) s = .next { s with
      rxExpected := len, rxDeadline := deadline, rxCount := 0#16, rxElapsed := 0#32, rx := []
      shortReason := .none, decValid := false, decOrder := .none, decValue := none
      readingValid := false, reading := none, readingOrder := none, err := .none
      rxState := if len.toNat = 0 then .doneOk else .busy } := by
  have hzero : (len = 0#16) = (len.toNat = 0) := propext BitVec.toNat_eq
  rw [exec, execRxReadExact, if_neg hb, if_neg (Nat.not_lt.2 hlen)]
  simp only [hzero, done]

/-- The first request of a new read asks for every byte, within the whole deadline (R90, R91). -/
theorem pendingRequest_of_new_read {t : State} (hb : t.rxState = .busy) (hcount : t.rxCount = 0#16)
    (helapsed : t.rxElapsed = 0#32) :
    pendingRequest t = some ⟨t.rxExpected.toNat,
      if t.rxDeadline.toNat = 0 then t.cfg.perCallTimeoutMs
      else min t.cfg.perCallTimeoutMs t.rxDeadline.toNat⟩ := by
  have hzero : (t.rxDeadline = 0#32) = (t.rxDeadline.toNat = 0) := propext BitVec.toNat_eq
  simp [pendingRequest_of_busy hb, missingBytes, callTimeout, hcount, helapsed, hzero]

/-- Settles O19: the word is `encode`'s, a reserved bit makes a word of opcode 5 a reserved word, and the rest
are the three outcomes. -/
theorem rxReadExactStartsTheRead : Obligations.RxReadExactStartsTheRead := by
  refine ⟨fun deadline len => delivers_encode (.rxReadExact deadline len),
    fun w hop hres => illegal_of_reservedWord (.inr (.inr (.inr (.inr (.inr (.inl ⟨hop, hres⟩)))))),
    fun s deadline len hb => exec_rxReadExact_busy deadline len hb,
    fun s deadline len hb hlen => exec_rxReadExact_reject deadline hb hlen,
    fun s deadline len hb hlen => ⟨_, exec_rxReadExact_done deadline hb hlen, rfl, memGet_nil, ?_, ?_⟩⟩
  · exact fun hz => pendingRequest_of_not_busy (by simp [hz])
  · exact fun hz => pendingRequest_of_new_read (if_neg hz) rfl rfl

/-! ## The response step, answer by answer (R93) -/

theorem step_answer {s : State} {a : Answer} {rest : List Event} (h : s.inbox = .answer a :: rest) :
    step s = .next (respond a { s with inbox := rest }) := step_of_inbox_cons h

theorem respond_notReady {s : State} (hb : s.rxState = .busy) (e : U32) :
    respond (.notReady e) s = { accumulate e s with rxState := .doneTransportErr } := if_pos hb

theorem respond_ioError {s : State} (hb : s.rxState = .busy) (e : U32) :
    respond (.ioError e) s = { accumulate e s with rxState := .doneIoErr } := if_pos hb

theorem respond_endOfStream {s : State} (hb : s.rxState = .busy) (e : U32) :
    respond (.endOfStream e) s = endShort .endOfStream (accumulate e s) := if_pos hb

theorem respond_overflow {s : State} {bs : List Byte} (hb : s.rxState = .busy) (e : U32)
    (hover : missingBytes s < bs.length) :
    respond (.data bs e) s = overflowFault (accumulate e s) := by
  rw [respond, if_pos hb, respondBusy, if_pos hover, Answer.elapsed]

theorem respond_empty {s : State} (hb : s.rxState = .busy) (e : U32) :
    respond (.data [] e) s = endShort .noData (accumulate e s) := if_pos hb

theorem respond_fitting {s : State} {bs : List Byte} (hb : s.rxState = .busy) (e : U32)
    (h1 : 1 ≤ bs.length) (hfit : bs.length ≤ missingBytes s) :
    respond (.data bs e) s = settle (collect bs (accumulate e s)) := by
  rw [respond, if_pos hb, respondBusy, if_neg (Nat.not_lt.2 hfit), if_neg (by omega), Answer.elapsed]

/-- Settles O21: one equation of the response step each. -/
theorem transportFailureEndsTheRead : Obligations.TransportFailureEndsTheRead := by
  refine fun s rest e hb => ⟨fun hinbox => ?_, fun hinbox => ?_⟩
  · rw [step_answer hinbox, respond_notReady (by exact hb)]
    rfl
  · rw [step_answer hinbox, respond_ioError (by exact hb)]
    rfl

/-- Settles O22: one equation of the response step each. -/
theorem quietTransportEndsTheReadShort : Obligations.QuietTransportEndsTheReadShort := by
  refine fun s rest e hb => ⟨fun hinbox => ?_, fun hinbox => ?_⟩
  · rw [step_answer hinbox, respond_endOfStream (by exact hb)]
    rfl
  · rw [step_answer hinbox, respond_empty (by exact hb)]
    rfl

/-- Settles O23: the overflow is tested before any byte is written. -/
theorem chunkOverflowFaults : Obligations.ChunkOverflowFaults := by
  intro s rest bs e hb hover hinbox
  rw [step_answer hinbox, respond_overflow (by exact hb) e (by exact hover)]
  rfl

/-! ## A collecting step (R98, R99, R100) -/

/-- The frame is complete exactly when the answer brought every missing byte. -/
theorem collect_full_iff {bs : List Byte} {s : State} (h1 : 1 ≤ bs.length)
    (hfit : bs.length ≤ missingBytes s) :
    (collect bs s).rxCount = (collect bs s).rxExpected ↔ bs.length = missingBytes s := by
  rw [BitVec.toNat_eq, (collect_count h1 hfit).1, collect_rxExpected]
  unfold missingBytes at hfit ⊢
  omega

theorem missingBytes_collect {bs : List Byte} {s : State} (h1 : 1 ≤ bs.length)
    (hfit : bs.length ≤ missingBytes s) : missingBytes (collect bs s) = missingBytes s - bs.length := by
  rw [missingBytes, (collect_count h1 hfit).1, collect_rxExpected, Nat.sub_add_eq, missingBytes]

theorem settle_of_full {s : State} (hfull : s.rxCount = s.rxExpected) :
    settle s = { s with rxState := .doneOk } := if_pos hfull

theorem settle_of_late {s : State} (hmiss : s.rxCount ≠ s.rxExpected) (hd : s.rxDeadline ≠ 0#32)
    (hlate : s.rxDeadline.toNat ≤ s.rxElapsed.toNat) : settle s = endShort .deadline s := by
  rw [settle, if_neg hmiss, if_pos ⟨hd, hlate⟩]

theorem settle_of_open {s : State} (hmiss : s.rxCount ≠ s.rxExpected)
    (htime : s.rxDeadline = 0#32 ∨ s.rxElapsed.toNat < s.rxDeadline.toNat) : settle s = s := by
  rw [settle, if_neg hmiss, if_neg]
  rintro ⟨hd, hlate⟩
  exact Nat.not_lt.2 hlate (htime.resolve_left hd)

/-- The end of a collecting step decides the outcome of the read, and nothing else. -/
theorem settle_frame (s : State) :
    settle s = { s with rxState := (settle s).rxState, shortReason := (settle s).shortReason } := by
  obtain ⟨-, hs⟩ | ⟨-, -, -, hs⟩ | ⟨-, -, hs⟩ := settle_cases s <;>
    simp only [hs, endShort]

@[simp] theorem settle_rx (s : State) : (settle s).rx = s.rx := by rw [settle_frame]

@[simp] theorem settle_rxCount (s : State) : (settle s).rxCount = s.rxCount := by rw [settle_frame]

@[simp] theorem missingBytes_settle (s : State) : missingBytes (settle s) = missingBytes s := by
  rw [settle_frame]
  rfl

theorem step_fitting {s : State} {bs : List Byte} {e : U32} {rest : List Event} (hb : s.rxState = .busy)
    (h1 : 1 ≤ bs.length) (hfit : bs.length ≤ missingBytes s)
    (hinbox : s.inbox = .answer (.data bs e) :: rest) :
    step s = .next (settle (collect bs (accumulate e { s with inbox := rest }))) := by
  rw [step_answer hinbox, respond_fitting (by exact hb) e h1 (by exact hfit)]

/-- Settles O24: the bytes are `memWrite`'s, the count does not wrap because the bytes fit the request, and
the three ends are `settle`'s. -/
theorem dataAnswerAppendsItsBytes : Obligations.DataAnswerAppendsItsBytes := by
  intro s rest bs e hb h1 hfit hinbox
  refine ⟨_, step_fitting hb h1 hfit hinbox, ?_⟩
  rw [settle_rx, settle_rxCount, settle_rxElapsed]
  refine ⟨settle_frame _, memGet_memWrite s.rx s.rxCount.toNat bs, (collect_count h1 hfit).1, rfl,
    fun hfull => ?_, fun hmiss hd hlate => ?_, fun hmiss htime => ?_⟩
  · rw [settle_of_full (by exact hfull)]
    exact ⟨rfl, rfl⟩
  · rw [settle_of_late hmiss hd hlate]
    exact ⟨rfl, rfl⟩
  · rw [settle_of_open (by exact hmiss) (by exact htime)]
    exact ⟨hb, rfl, pendingRequest_of_busy hb⟩

/-! ## A transport that keeps its timeouts (R101, R126) -/

theorem elapsed_le_of_honours {r : Request} {a : Answer} (h : honours r a = true) :
    a.elapsed.toNat ≤ r.timeout := by
  cases a with
  | data bs e => simp only [honours, Bool.and_eq_true, decide_eq_true_eq] at h; exact h.2
  | endOfStream e => exact of_decide_eq_true h
  | ioError e => exact of_decide_eq_true h
  | notReady e => exact of_decide_eq_true h

/-- Settles O28: a BUSY read's timeout is at most the time its deadline leaves, so the sum stays within it. -/
theorem honestTransportMeetsDeadline : Obligations.HonestTransportMeetsDeadline := by
  intro s rest a r h hd hpending hhonours hinbox
  obtain ⟨hb, rfl⟩ := pendingRequest_eq_some_iff.1 hpending
  obtain ⟨-, -, -, -, -, hdeadline, -⟩ := respond_frame a { s with inbox := rest }
  refine ⟨_, step_answer hinbox, hdeadline, ?_⟩
  rw [respond_rxElapsed (by exact hb), satAdd_toNat, hdeadline]
  have hle : a.elapsed.toNat ≤ callTimeout s := elapsed_le_of_honours hhonours
  have hleft := (h.rx.busyTime hb).resolve_left hd
  rw [callTimeout_of_deadline hd] at hle
  dsimp only
  omega

end Sys2Proof.Machine
end

section
/-! SUPPORT. Whole reads (spec/42_frame_reader.md R98, R100, R102): every answer that leaves a read BUSY adds a
byte, so a read ends; and answers that bring exactly the missing bytes write what one answer would. -/

namespace Sys2Proof.Machine

/-! ## Every read ends (R102) -/

/-- An answer that leaves the read BUSY brought at least one of the missing bytes. -/
theorem missingBytes_respond_lt {a : Answer} {s : State} (hb : s.rxState = .busy)
    (hbusy : (respond a s).rxState = .busy) : missingBytes (respond a s) < missingBytes s := by
  obtain ⟨e, -, hr⟩ | ⟨e, -, hr⟩ | ⟨e, -, hr⟩ | ⟨bs, e, -, -, hr⟩ | ⟨e, -, hr⟩ |
    ⟨bs, e, -, h1, hfit, hr⟩ := respond_cases (a := a) hb
  case inr.inr.inr.inr.inr =>
    have hleft : missingBytes (collect bs (accumulate e s)) = missingBytes s - bs.length :=
      missingBytes_collect h1 hfit
    rw [hr, missingBytes_settle, hleft]
    omega
  all_goals simp [hr] at hbusy

/-- As many answers as a read has missing bytes end it; answers after the end have no effect. -/
theorem run_answers_ends {s : State} {answers : List Answer} {rest : List Event} (h : s.Inv)
    (hinbox : s.inbox = answers.map Event.answer ++ rest)
    (henough : s.rxState = .busy → missingBytes s ≤ answers.length) :
    ∃ t : State, Host.Core.run Sys2Proof.core answers.length s = .next t ∧
      t.rxState ≠ .busy ∧ t.inbox = rest := by
  induction answers generalizing s with
  | nil =>
    refine ⟨s, rfl, fun hb => ?_, hinbox⟩
    have hmissing := h.rx.busyMissing hb
    have hnone := henough hb
    simp only [missingBytes, List.length_nil] at hnone
    omega
  | cons a answers ih =>
    let s₀ : State := { s with inbox := answers.map Event.answer ++ rest }
    obtain ⟨-, -, -, -, -, -, -, -, -, -, -, -, -, hrest, -⟩ := respond_frame a s₀
    have henough' (hbusy : (respond a s₀).rxState = .busy) :
        missingBytes (respond a s₀) ≤ answers.length := by
      by_cases hb : s.rxState = .busy
      · have hlt : missingBytes (respond a s₀) < missingBytes s := missingBytes_respond_lt hb hbusy
        have hall := henough hb
        rw [List.length_cons] at hall
        omega
      · rw [respond_of_not_busy (by exact hb)] at hbusy
        exact absurd hbusy hb
    rw [List.length_cons, run_succ_of_step (step_answer hinbox)]
    exact ih ((h.with_inbox _).respond a) hrest henough'

/-- Settles O26: the missing bytes of the read bound the answers it takes. -/
theorem everyReadEnds : Obligations.EveryReadEnds :=
  fun _ _ _ h _ hinbox hlen => run_answers_ends h hinbox fun _ => hlen.ge

/-! ## Chunks (R98, R100) -/

/-- Writing one sequence right after another writes their concatenation. -/
theorem memWrite_append (m : Memory) (a : Nat) (bs cs : List Byte) :
    memWrite m a (bs ++ cs) = memWrite (memWrite m a bs) (a + bs.length) cs := by
  induction bs generalizing m a with
  | nil => rfl
  | cons b bs ih =>
    rw [List.cons_append, memWrite, ih, memWrite, List.length_cons, Nat.add_right_comm, Nat.add_assoc]

/-- Adding times one by one saturates their sum. -/
theorem foldl_satAdd_toNat (a : U32) (es : List U32) :
    (es.foldl satAdd a).toNat = min (a.toNat + (es.map BitVec.toNat).sum) (2 ^ 32 - 1) := by
  induction es generalizing a with
  | nil =>
    have hlt := a.isLt
    simp only [List.foldl_nil, List.map_nil, List.sum_nil]
    omega
  | cons e es ih =>
    rw [List.foldl_cons, ih, satAdd_toNat, List.map_cons, List.sum_cons]
    omega

/-- The state after a read without a deadline whose missing bytes came as `bs` in calls that took `es`, the
events `rest` still to come. -/
def completed (bs : List Byte) (es : List U32) (rest : List Event) (s : State) : State :=
  { s with
    inbox := rest
    rx := memWrite s.rx s.rxCount.toNat bs
    rxCount := s.rxExpected
    rxElapsed := es.foldl satAdd s.rxElapsed
    rxState := .doneOk }

/-- An answer with every missing byte completes the read. -/
theorem step_completing {s : State} {bs : List Byte} {e : U32} {rest : List Event} (hb : s.rxState = .busy)
    (h1 : 1 ≤ bs.length) (hall : bs.length = missingBytes s)
    (hinbox : s.inbox = .answer (.data bs e) :: rest) :
    step s = .next (completed bs [e] rest s) := by
  have hfull : (collect bs (accumulate e s)).rxCount = s.rxExpected := (collect_full_iff h1 hall.le).2 hall
  rw [step_fitting hb h1 hall.le hinbox, settle_of_full (by exact hfull)]
  exact congrArg (fun n => Host.Outcome.next { completed bs [e] rest s with rxCount := n }) hfull

/-- Without a deadline, an answer with fewer bytes leaves the read BUSY. -/
theorem step_collecting {s : State} {bs : List Byte} {e : U32} {rest : List Event} (hb : s.rxState = .busy)
    (hd : s.rxDeadline = 0#32) (h1 : 1 ≤ bs.length) (hfew : bs.length < missingBytes s)
    (hinbox : s.inbox = .answer (.data bs e) :: rest) :
    step s = .next (collect bs (accumulate e { s with inbox := rest })) := by
  have hmiss : ¬ (collect bs (accumulate e s)).rxCount = s.rxExpected := fun hfull =>
    hfew.ne ((collect_full_iff h1 hfew.le).1 hfull)
  rw [step_fitting hb h1 hfew.le hinbox, settle_of_open (by exact hmiss) (.inl (by exact hd))]

/-- Completing a read after some of its bytes were collected. -/
theorem completed_collect {bs : List Byte} {s : State} (cs : List Byte) (e : U32) (es : List U32)
    (rest : List Event) (h1 : 1 ≤ bs.length) (hfit : bs.length ≤ missingBytes s) :
    completed cs es rest (collect bs (accumulate e s)) = completed (bs ++ cs) (e :: es) rest s := by
  have hcount := (collect_count (s := accumulate e s) h1 hfit).1
  rw [completed, hcount, completed, memWrite_append]
  rfl

/-- Non-empty answers that carry exactly the missing bytes complete a read without a deadline. -/
theorem run_chunks {s : State} {calls : List (List Byte × U32)} {rest : List Event}
    (hb : s.rxState = .busy) (hd : s.rxDeadline = 0#32) (hpos : 0 < missingBytes s)
    (hne : ∀ c ∈ calls, c.1 ≠ [])
    (hlen : (calls.map (·.1)).flatten.length = missingBytes s)
    (hinbox : s.inbox = calls.map (fun c => .answer (.data c.1 c.2)) ++ rest) :
    Host.Core.run Sys2Proof.core calls.length s =
      .next (completed (calls.map (·.1)).flatten (calls.map (·.2)) rest s) := by
  induction calls generalizing s with
  | nil => exact absurd hlen hpos.ne
  | cons c calls ih =>
    obtain ⟨bs, e⟩ := c
    have h1 : 1 ≤ bs.length := List.length_pos_iff.2 (hne _ List.mem_cons_self)
    have hne' : ∀ c ∈ calls, c.1 ≠ [] := fun c hc => hne c (List.mem_cons_of_mem _ hc)
    have hsum : bs.length + (calls.map (·.1)).flatten.length = missingBytes s := by simpa using hlen
    by_cases hall : bs.length = missingBytes s
    · have hflat : (calls.map (·.1)).flatten = [] := List.eq_nil_of_length_eq_zero (by omega)
      obtain rfl : calls = [] := List.eq_nil_iff_forall_not_mem.2 fun d hmem =>
        hne' d hmem (List.flatten_eq_nil_iff.1 hflat _ (List.mem_map_of_mem hmem))
      exact (run_succ_of_step (step_completing hb h1 hall hinbox) 0).trans (by simp [Host.Core.run])
    · have hfew : bs.length < missingBytes s := by omega
      have hleft : missingBytes (collect bs (accumulate e s)) = missingBytes s - bs.length :=
        missingBytes_collect h1 hfew.le
      refine (run_succ_of_step (step_collecting hb hd h1 hfew hinbox) calls.length).trans ?_
      refine (ih (s := collect bs (accumulate e { s with inbox := _ })) hb hd
        (hleft ▸ Nat.sub_pos_of_lt hfew) hne' (hleft ▸ Nat.eq_sub_of_add_eq' hsum) rfl).trans ?_
      rw [completed_collect _ e _ rest h1 (by exact hfew.le)]
      rfl

/-- Settles O27: the memory is `memWrite`'s, and the accumulator the saturating sum. -/
theorem chunkingDoesNotMatter : Obligations.ChunkingDoesNotMatter := by
  intro s calls rest h hb hd hne hlen hinbox
  have hmissing := h.rx.busyMissing hb
  refine ⟨_, run_chunks hb hd (Nat.sub_pos_of_lt hmissing) hne hlen hinbox, rfl, ?_, fun i => ?_⟩
  · exact (foldl_satAdd_toNat ..).trans (by rw [List.map_map]; rfl)
  · have hend : s.rxCount.toNat + (calls.map (·.1)).flatten.length = s.rxExpected.toNat := by omega
    rw [← hend]
    exact memGet_memWrite ..

end Sys2Proof.Machine
end

section
/-! SUPPORT. The decoder unit (spec/43_register_decoder.md R105 to R114): the resolution of four bytes, the
outcomes of DEC_FLOAT32 and DEC_READING, and the six slots of one Reading. -/

namespace Sys2Proof.Machine

/-! ## The resolution (R105, R107) -/

/-- Settles O33: the candidates are the two orders of the bytes, and each clause is a branch of R107. -/
theorem resolvePrefersNaturalOrder : Obligations.ResolvePrefersNaturalOrder := fun b0 b1 b2 b3 =>
  ⟨naturalOrder b0 b1 b2 b3, swappedOrder b0 b1 b2 b3, naturalOrder_toNat b0 b1 b2 b3,
    swappedOrder_toNat b0 b1 b2 b3, resolve_of_natural, resolve_of_swapped, resolve_of_neither⟩

/-- The result carries one of the three orders of R32, with its number. -/
theorem resolve_order_mem (b0 b1 b2 b3 : Byte) :
    ((resolve b0 b1 b2 b3).2, orderCode (resolve b0 b1 b2 b3).2) ∈ resolvedOrderNumbers := by
  unfold resolve
  split_ifs <;> simp [resolvedOrderNumbers, orderCode]

/-- The bytes of `v`, high byte first, are `v` in natural order (R105). -/
theorem naturalOrder_bytes (v : U32) :
    naturalOrder (v.extractLsb 31 24) (v.extractLsb 23 16) (v.extractLsb 15 8) (v.extractLsb 7 0) = v := by
  refine BitVec.eq_of_toNat_eq ?_
  simp only [naturalOrder_toNat, BitVec.extractLsb_toNat, Nat.shiftRight_eq_div_pow]
  omega

/-- The bytes of `v` with its registers exchanged are `swap16 v` in natural order (R114). -/
theorem naturalOrder_swapped_bytes (v : U32) :
    naturalOrder (v.extractLsb 15 8) (v.extractLsb 7 0) (v.extractLsb 31 24) (v.extractLsb 23 16) =
      swap16 v := by
  refine BitVec.eq_of_toNat_eq ?_
  have hcat (x y : U16) : (x ++ y).toNat = x.toNat * 2 ^ 16 + y.toNat := by
    rw [BitVec.toNat_append, ← Nat.shiftLeft_add_eq_or_of_lt y.isLt, Nat.shiftLeft_eq]
  rw [swap16, hcat]
  simp only [naturalOrder_toNat, BitVec.extractLsb_toNat, Nat.shiftRight_eq_div_pow]
  omega

/-- Settles O35: from the natural bytes `v` is the natural candidate; from the swapped ones `swap16 v` is,
which is not plausible, and `v` is the swapped candidate. -/
theorem swappedDeviceIsRecovered : Obligations.SwappedDeviceIsRecovered := by
  intro v hv hswap
  constructor
  · rw [resolve_of_natural] <;> rw [naturalOrder_bytes]
    exact hv
  · rw [resolve_of_swapped (by rwa [naturalOrder_swapped_bytes])] <;>
      rw [swappedOrder_eq, naturalOrder_bytes]
    exact hv

/-- Settles O36: the spec's examples, evaluated. -/
theorem heuristicCanMislead : Obligations.HeuristicCanMislead := by
  have hvalue : f32Value 0x4CBEBC20#32 = 100000000 := by
    rw [f32Value, show f32Sign 0x4CBEBC20#32 = false by decide,
      show f32Scaled 0x4CBEBC20#32 = 100000000 * 2 ^ 149 by decide]
    norm_num
  exact ⟨by decide, by decide, hvalue, by decide, by decide, by decide⟩

/-! ## One field of the receive buffer -/

/-- `MemRead` depends on the bytes it reads alone. -/
theorem memRead_congr {m m' : Memory} {a n : Nat}
    (h : ∀ j < n, memGet m (a + j) = memGet m' (a + j)) : memRead m a n = memRead m' a n := by
  refine Option.ext fun bs => ?_
  rw [memRead_eq_some_iff, memRead_eq_some_iff]
  refine and_congr_right fun _ => forall₂_congr fun j hj => ?_
  rw [h j hj]

/-- A decoded field is the resolution of its own four bytes, which the buffer holds. -/
theorem decodeField_bytes {m : Memory} {off : Nat} {p : U32 × DecOrder} (h : decodeField m off = some p) :
    ∃ b0 b1 b2 b3, memGet m off = some b0 ∧ memGet m (off + 1) = some b1 ∧
      memGet m (off + 2) = some b2 ∧ memGet m (off + 3) = some b3 ∧ p = resolve b0 b1 b2 b3 := by
  obtain ⟨b0, b1, b2, b3, hread, hp⟩ := decodeField_eq_some h
  obtain ⟨-, hget⟩ := (memRead_eq_some_iff ..).1 hread
  exact ⟨b0, b1, b2, b3, hget 0 (by decide), hget 1 (by decide), hget 2 (by decide), hget 3 (by decide), hp⟩

/-! ## DEC_FLOAT32 (R108) -/

theorem exec_decFloat32_busy {s : State} (off : U16) (hb : s.rxState = .busy) :
    exec (.decFloat32 off) s = .next { s with err := .busy, errSticky := true } :=
  if_pos hb

theorem exec_decFloat32_badRange {s : State} {off : U16} (hb : s.rxState ≠ .busy)
    (hoff : s.rxCount.toNat < off.toNat + 4) :
    exec (.decFloat32 off) s = .next { s with err := .badRange, errSticky := true } := by
  rw [exec, execDecFloat32, if_neg hb, if_pos hoff]
  rfl

theorem exec_decFloat32_done {s : State} {off : U16} {p : U32 × DecOrder} (hb : s.rxState ≠ .busy)
    (hoff : off.toNat + 4 ≤ s.rxCount.toNat) (hfield : decodeField s.rx off.toNat = some p) :
    exec (.decFloat32 off) s =
      .next { s with decValue := some p.1, decOrder := p.2, decValid := true, err := .none } := by
  rw [exec, execDecFloat32, if_neg hb, if_neg (Nat.not_lt.2 hoff), hfield]
  rfl

/-- Settles O31: the word is `encode`'s, a reserved bit makes a word of opcode 6 a reserved word, and the rest
are the outcomes in the order of R108's checks. -/
theorem decFloat32DecodesTheField : Obligations.DecFloat32DecodesTheField := by
  refine ⟨fun off => delivers_encode (.decFloat32 off),
    fun w hop hres => illegal_of_reservedWord
      (.inr (.inr (.inr (.inr (.inr (.inr (.inl ⟨hop, hres⟩))))))),
    fun s off hb => exec_decFloat32_busy off hb,
    fun s off hb hoff => exec_decFloat32_badRange hb hoff,
    fun s off h hb hoff => ?_⟩
  obtain ⟨_, _, _, _, -, hfield⟩ := decodeField_of_holdsFirst h.rx.cells hoff
  obtain ⟨b0, b1, b2, b3, h0, h1, h2, h3, hp⟩ := decodeField_bytes hfield
  exact ⟨b0, b1, b2, b3, h0, h1, h2, h3, hp ▸ exec_decFloat32_done hb hoff hfield⟩

/-! ## DEC_READING (R109) -/

theorem exec_decReading_busy {s : State} (hb : s.rxState = .busy) :
    exec .decReading s = .next { s with err := .busy, errSticky := true } :=
  if_pos hb

theorem exec_decReading_noFrame {s : State} (hb : s.rxState ≠ .busy)
    (h : s.rxState ≠ .doneOk ∨ s.rxExpected.toNat ≠ readingRespLen) :
    exec .decReading s = .next { s with err := .noFrame, errSticky := true } := by
  rw [exec, execDecReading, if_neg hb, if_pos h]
  rfl

/-- On a complete 29-byte frame the command is done, with the six fields of that frame. -/
theorem State.Inv.exec_decReading_done {s : State} (h : s.Inv) (hok : s.rxState = .doneOk)
    (hlen : s.rxExpected.toNat = readingRespLen) :
    ∃ r orders, decodeFields s.rx = some (r, orders) ∧
      exec .decReading s = .next { s with
        reading := some r, readingOrder := some orders, readingValid := true, err := .none } := by
  obtain ⟨r, orders, hfields⟩ := h.decodeFields_eq_some hok hlen
  refine ⟨r, orders, hfields, ?_⟩
  rw [exec, execDecReading, if_neg (by simp [hok]), if_neg (by simp [hok, hlen]), hfields]
  rfl

/-- Bits `2k+1:2k` of the packed orders are the code of slot `k`'s order (R33). -/
theorem packOrders_extractLsb' (o0 o1 o2 o3 o4 o5 : DecOrder) {k : Nat} (hk : k < 6) :
    (packOrders o0 o1 o2 o3 o4 o5).extractLsb' (2 * k) 2 =
      orderCode ([o0, o1, o2, o3, o4, o5][k]'hk) := by
  refine BitVec.eq_of_getLsbD_eq fun i hi => ?_
  rw [BitVec.getLsbD_extractLsb', packOrders]
  interval_cases k <;> interval_cases i <;> simp only [BitVec.getLsbD_append] <;> simp

/-- Slot `k` of a Reading and its order are the field at offset `3 + 4k` (R76, R109). -/
theorem decodeFields_slot {m : Memory} {r : Reading} {orders : BitVec 12}
    (h : decodeFields m = some (r, orders)) {k : Nat} (hk : k < 6) :
    ∃ p, decodeField m (3 + 4 * k) = some p ∧ r.slot k = some p.1 ∧
      orders.extractLsb' (2 * k) 2 = orderCode p.2 := by
  unfold decodeFields at h
  split at h
  · rename_i u0 o0 u1 o1 u2 o2 u3 o3 u4 o4 u5 o5 h0 h1 h2 h3 h4 h5
    obtain ⟨rfl, rfl⟩ := Prod.mk.inj (Option.some.inj h)
    have horder := packOrders_extractLsb' o0 o1 o2 o3 o4 o5 hk
    interval_cases k
    · exact ⟨_, h0, rfl, horder⟩
    · exact ⟨_, h1, rfl, horder⟩
    · exact ⟨_, h2, rfl, horder⟩
    · exact ⟨_, h3, rfl, horder⟩
    · exact ⟨_, h4, rfl, horder⟩
    · exact ⟨_, h5, rfl, horder⟩
  · cases h

/-- Settles O32: the word is `encode`'s, a reserved bit makes a word of opcode 7 a reserved word, the outcomes
stand in the order of R109's checks, and each slot is the resolution of its own four bytes. -/
theorem decReadingDecodesSixFields : Obligations.DecReadingDecodesSixFields := by
  refine ⟨delivers_encode .decReading,
    fun w hop hres => illegal_of_reservedWord
      (.inr (.inr (.inr (.inr (.inr (.inr (.inr ⟨hop, hres⟩))))))),
    fun s hb => exec_decReading_busy hb,
    fun s hb hframe => exec_decReading_noFrame hb hframe,
    fun s h hok hlen => ?_⟩
  obtain ⟨r, orders, hfields, hexec⟩ := h.exec_decReading_done hok hlen
  refine ⟨r, orders, hexec, fun k hk => ?_⟩
  obtain ⟨_, hfield, hslot, horder⟩ := decodeFields_slot hfields hk
  obtain ⟨b0, b1, b2, b3, h0, h1, h2, h3, rfl⟩ := decodeField_bytes hfield
  exact ⟨b0, b1, b2, b3, h0, h1, h2, h3, hslot, horder ▸ resolve_order_mem b0 b1 b2 b3⟩

/-- Settles O38: slot `k` of either Reading is the one field at offset `3 + 4k`, which its four bytes
determine. -/
theorem fieldsResolveIndependently : Obligations.FieldsResolveIndependently := by
  intro s s' k h h' hok hok' hlen hlen' hk hbytes
  obtain ⟨r, orders, hfields, hexec⟩ := h.exec_decReading_done hok hlen
  obtain ⟨r', orders', hfields', hexec'⟩ := h'.exec_decReading_done hok' hlen'
  obtain ⟨p, hfield, hslot, horder⟩ := decodeFields_slot hfields hk
  obtain ⟨p', hfield', hslot', horder'⟩ := decodeFields_slot hfields' hk
  have hsame : decodeField s.rx (3 + 4 * k) = decodeField s'.rx (3 + 4 * k) := by
    rw [decodeField, decodeField, memRead_congr hbytes]
  obtain rfl : p = p' := by rwa [hfield, hfield', Option.some.injEq] at hsame
  exact ⟨_, _, r, r', orders, orders', hexec, hexec', rfl, rfl, rfl, rfl,
    hslot.trans hslot'.symm, horder.trans horder'.symm⟩

end Sys2Proof.Machine
end

section
/-! SUPPORT. Widening (spec/00_scope.md R16, spec/43_register_decoder.md R110): the fields of a packed binary64
pattern, the cases of `widen`, and that a finite magnitude is only rescaled, from multiples of `2 ^ -149` to
multiples of `2 ^ -1074`. -/

namespace Sys2Proof.Machine

/-! ## The fields of a packed pattern -/

@[simp] theorem f64Sign_f64Pack (sign : Bool) (exponent : BitVec 11) (fraction : BitVec 52) :
    f64Sign (f64Pack sign exponent fraction) = sign := by
  simp only [f64Sign, f64Pack, BitVec.getLsbD_append]
  simp

@[simp] theorem f64Exponent_f64Pack (sign : Bool) (exponent : BitVec 11) (fraction : BitVec 52) :
    f64Exponent (f64Pack sign exponent fraction) = exponent := by
  refine BitVec.eq_of_getLsbD_eq fun i hi => ?_
  simp only [f64Exponent, f64Pack, BitVec.extractLsb, BitVec.getLsbD_extractLsb', BitVec.getLsbD_append]
  simp [hi]

@[simp] theorem f64Fraction_f64Pack (sign : Bool) (exponent : BitVec 11) (fraction : BitVec 52) :
    f64Fraction (f64Pack sign exponent fraction) = fraction := by
  refine BitVec.eq_of_getLsbD_eq fun i hi => ?_
  simp only [f64Fraction, f64Pack, BitVec.extractLsb, BitVec.getLsbD_extractLsb', BitVec.getLsbD_append]
  simp [hi]

theorem f64Scaled_f64Pack_zero (sign : Bool) : f64Scaled (f64Pack sign 0#11 0#52) = 0 := by
  simp [f64Scaled]

/-- The magnitude of a packed normal datum, its biased exponent `e + 1` and its fraction `f` in range. -/
theorem f64Scaled_f64Pack_normal (sign : Bool) {e f : Nat} (he : e + 1 < 2 ^ 11) (hf : f < 2 ^ 52) :
    f64Scaled (f64Pack sign (BitVec.ofNat 11 (e + 1)) (BitVec.ofNat 52 f)) = (2 ^ 52 + f) * 2 ^ e := by
  have hexp : (BitVec.ofNat 11 (e + 1)).toNat = e + 1 := Nat.mod_eq_of_lt he
  have hne : BitVec.ofNat 11 (e + 1) ≠ 0#11 := fun h => by simp [h] at hexp
  have hfrac : (BitVec.ofNat 52 f).toNat = f := Nat.mod_eq_of_lt hf
  rw [f64Scaled, f64Exponent_f64Pack, f64Fraction_f64Pack, if_neg hne, hexp, hfrac, Nat.add_sub_cancel]

/-- A packed datum is finite when its biased exponent is below the largest. -/
theorem f64IsFinite_f64Pack (sign : Bool) {e : Nat} (he : e < 2047) (fraction : BitVec 52) :
    f64IsFinite (f64Pack sign (BitVec.ofNat 11 e) fraction) = true := by
  have hexp : (BitVec.ofNat 11 e).toNat = e := Nat.mod_eq_of_lt (by omega)
  have hne : BitVec.ofNat 11 e ≠ 0x7FF#11 := fun h => by simp [h] at hexp; omega
  simpa [f64IsFinite] using hne

/-! ## The cases of `widen` -/

theorem widen_of_nan {u : U32} (h : f32IsNaN u = true) :
    widen u = f64Pack (nanWidenSign u) 0x7FF#11 (nanFraction (nanWidenFraction u)) :=
  if_pos h

theorem nanFraction_ne_zero (p : BitVec 52) : nanFraction p ≠ 0#52 := by
  unfold nanFraction
  split_ifs with h
  · decide
  · exact h

theorem widen_of_infinite {u : U32} (h : f32IsInfinite u = true) :
    widen u = f64Pack (f32Sign u) 0x7FF#11 0#52 := by
  have hnan : f32IsNaN u = false := by simp_all [f32IsNaN, f32IsInfinite]
  simp [widen, hnan, h]

theorem not_nan_not_infinite {u : U32} (h : f32IsFinite u = true) :
    f32IsNaN u = false ∧ f32IsInfinite u = false := by
  simp_all [f32IsFinite, f32IsNaN, f32IsInfinite]

/-- Neither NaN nor finite leaves the infinities (R16). -/
theorem infinite_of_not_finite {u : U32} (hnan : f32IsNaN u = false) (hfin : f32IsFinite u = false) :
    f32IsInfinite u = true := by
  simp_all [f32IsFinite, f32IsNaN, f32IsInfinite]

/-- Both zeros have exponent and fraction 0 (R16). -/
theorem f32IsZero_iff (u : U32) : f32IsZero u = true ↔ f32Exponent u = 0#8 ∧ f32Fraction u = 0#23 := by
  have hexp := f32Exponent_toNat u
  have hfrac := f32Fraction_toNat u
  rw [f32IsZero, beq_iff_eq, ← BitVec.toNat_inj, ← BitVec.toNat_inj, ← BitVec.toNat_inj]
  simp only [BitVec.toNat_ofNat]
  omega

theorem widen_of_zero {u : U32} (hexp : f32Exponent u = 0#8) (hfrac : f32Fraction u = 0#23) :
    widen u = f64Pack (f32Sign u) 0#11 0#52 := by
  simp [widen, f32IsNaN, f32IsInfinite, hexp, (f32IsZero_iff u).2 ⟨hexp, hfrac⟩]

theorem widen_of_subnormal {u : U32} {f : Nat} (hexp : f32Exponent u = 0#8)
    (hf : (f32Fraction u).toNat = f) (hne : f ≠ 0) :
    widen u = f64Pack (f32Sign u) (BitVec.ofNat 11 (f.log2 + 874))
      (BitVec.ofNat 52 ((f - 2 ^ f.log2) * 2 ^ (52 - f.log2))) := by
  have hfrac : f32Fraction u ≠ 0#23 := fun h => hne (by rw [← hf, h]; rfl)
  have hzero : ¬ f32IsZero u = true := fun h => hfrac ((f32IsZero_iff u).1 h).2
  simp [widen, f32IsNaN, f32IsInfinite, hexp, hzero, hf]

theorem widen_of_normal {u : U32} (hfin : f32IsFinite u = true) (hexp : f32Exponent u ≠ 0#8) :
    widen u = f64Pack (f32Sign u) (BitVec.ofNat 11 ((f32Exponent u).toNat + 896))
      (BitVec.ofNat 52 ((f32Fraction u).toNat * 2 ^ 29)) := by
  obtain ⟨hnan, hinf⟩ := not_nan_not_infinite hfin
  have hzero : ¬ f32IsZero u = true := fun h => hexp ((f32IsZero_iff u).1 h).1
  simp [widen, hnan, hinf, hzero, hexp]

/-! ## A finite magnitude is only rescaled -/

/-- Shifted left until its leading one is bit 52, a subnormal's fraction is a normal significand. -/
theorem subnormal_significand {f : Nat} (hf : f ≠ 0) (hlt : f < 2 ^ 23) :
    f.log2 < 23 ∧ (f - 2 ^ f.log2) * 2 ^ (52 - f.log2) < 2 ^ 52 ∧
      2 ^ 52 + (f - 2 ^ f.log2) * 2 ^ (52 - f.log2) = f * 2 ^ (52 - f.log2) := by
  have hlog : f.log2 < 23 := (Nat.log2_lt hf).2 hlt
  have hle : 2 ^ f.log2 ≤ f := Nat.log2_self_le hf
  have hlow : f - 2 ^ f.log2 < 2 ^ f.log2 := by
    have := Nat.lt_log2_self (n := f)
    omega
  have hone : 2 ^ 52 = 2 ^ f.log2 * 2 ^ (52 - f.log2) := by
    rw [← pow_add, Nat.add_sub_cancel' (by omega)]
  refine ⟨hlog, ?_, ?_⟩
  · rw [hone]
    exact Nat.mul_lt_mul_of_pos_right hlow (by positivity)
  · rw [hone, ← Nat.add_mul, Nat.add_sub_cancel' hle]

/-- Widening a finite datum keeps the sign and gives a finite datum; its magnitude counts units `2 ^ 925` times
as small, and `2 ^ 925` times as many. -/
theorem widen_of_finite {u : U32} (hfin : f32IsFinite u = true) :
    ∃ e fraction, e < 2047 ∧ widen u = f64Pack (f32Sign u) (BitVec.ofNat 11 e) fraction ∧
      f64Scaled (widen u) = f32Scaled u * 2 ^ 925 := by
  have hlt := (f32Fraction u).isLt
  by_cases hexp : f32Exponent u = 0#8
  · by_cases hfrac : f32Fraction u = 0#23
    · have hwiden := widen_of_zero hexp hfrac
      refine ⟨0, 0#52, by decide, hwiden, ?_⟩
      have hzero : f32Scaled u = 0 := by simp [f32Scaled, hexp, hfrac]
      rw [hwiden, f64Scaled_f64Pack_zero, hzero, Nat.zero_mul]
    · obtain ⟨f, hf⟩ : ∃ f, (f32Fraction u).toNat = f := ⟨_, rfl⟩
      rw [hf] at hlt
      have hne : f ≠ 0 := fun h => hfrac (BitVec.eq_of_toNat_eq (hf.trans h))
      have hwiden := widen_of_subnormal hexp hf hne
      obtain ⟨hlog, hfit, hsig⟩ := subnormal_significand hne hlt
      refine ⟨_, _, by omega, hwiden, ?_⟩
      rw [hwiden, f64Scaled_f64Pack_normal _ (by omega) hfit, hsig, f32Scaled, if_pos hexp, hf,
        Nat.mul_assoc, ← pow_add, show 52 - f.log2 + (f.log2 + 873) = 925 by omega]
  · have hwiden := widen_of_normal hfin hexp
    have hpos : (f32Exponent u).toNat ≠ 0 := fun h => hexp (BitVec.eq_of_toNat_eq h)
    have hmax := (f32Exponent u).isLt
    have hsig : 2 ^ 52 + (f32Fraction u).toNat * 2 ^ 29 = (2 ^ 23 + (f32Fraction u).toNat) * 2 ^ 29 := by
      omega
    refine ⟨_, _, by omega, hwiden, ?_⟩
    rw [hwiden, f64Scaled_f64Pack_normal _ (by omega) (by omega), hsig, f32Scaled, if_neg hexp, Nat.mul_assoc,
      Nat.mul_assoc, ← pow_add, ← pow_add,
      show 29 + ((f32Exponent u).toNat + 895) = (f32Exponent u).toNat - 1 + 925 by omega]

/-- The value is the same, since `2 ^ 1074 = 2 ^ 149 * 2 ^ 925`. -/
theorem f64Value_eq_f32Value {v : BitVec 64} {u : U32} (hsign : f64Sign v = f32Sign u)
    (hscaled : f64Scaled v = f32Scaled u * 2 ^ 925) : f64Value v = f32Value u := by
  have hunit : (2 : Rat) ^ 1074 = 2 ^ 149 * 2 ^ 925 := pow_add 2 149 925
  rw [f64Value, f32Value, hsign, hscaled, Nat.cast_mul, Nat.cast_pow, Nat.cast_ofNat, ← mul_assoc, hunit,
    mul_div_mul_right _ _ (by positivity)]

/-- Settles O37: a finite magnitude is only rescaled, and the NaN clause holds of every free sign and fraction
(log entry 9). -/
theorem wideningIsExact : Obligations.WideningIsExact := by
  intro u
  refine ⟨fun hfin => ?_, fun hnan => ?_, fun hinf => ?_, fun hnan => ?_⟩
  · obtain ⟨e, fraction, he, hwiden, hscaled⟩ := widen_of_finite hfin
    have hsign : f64Sign (widen u) = f32Sign u := by rw [hwiden, f64Sign_f64Pack]
    exact ⟨by rw [hwiden, f64IsFinite_f64Pack _ he], f64Value_eq_f32Value hsign hscaled⟩
  · cases hfin : f32IsFinite u with
    | true =>
      obtain ⟨e, fraction, -, hwiden, -⟩ := widen_of_finite hfin
      rw [hwiden, f64Sign_f64Pack]
    | false => rw [widen_of_infinite (infinite_of_not_finite hnan hfin), f64Sign_f64Pack]
  · simp [widen_of_infinite hinf, f64IsInfinite]
  · simp [widen_of_nan hnan, f64IsNaN, nanFraction_ne_zero]

end Sys2Proof.Machine
end

section
/-! SUPPORT. Errors and stops (spec/60_exceptions.md R115 to R118, R126, R131): why a step with no event stops,
what a rejection changes, which cause a command reports, and that no command touches a BUSY read (R140). -/

namespace Sys2Proof.Machine

/-! ## No event (R126, R131) -/

theorem step_of_inbox_nil {s : State} (h : s.inbox = []) : step s = .fault (stuckReason s) := by
  simp only [step, nextEvent, h]

theorem stuckReason_of_busy {s : State} (hb : s.rxState = .busy) : stuckReason s = .transportSilent := by
  simp [stuckReason, isQuiescent, hb]

theorem stuckReason_of_not_busy {s : State} (hb : s.rxState ≠ .busy) : stuckReason s = .quiescent := by
  simp [stuckReason, isQuiescent, hb]

/-- Settles O8: the step stops for `stuckReason`, which only asks whether a read is BUSY. -/
theorem noEventNoStep : Obligations.NoEventNoStep := by
  intro s hinbox
  rw [step_of_inbox_nil hinbox]
  exact ⟨fun hb => by rw [stuckReason_of_busy hb], fun hb => by rw [stuckReason_of_not_busy hb]⟩

/-! ## What a rejection changes (R117) -/

/-- Settles O42: a command word is rejected, which writes the two error fields, or done, which leaves ERR 0. -/
theorem rejectionChangesOnlyErr : Obligations.RejectionChangesOnlyErr := by
  intro s t w rest hinbox hstep
  have h := performed_of_step hinbox hstep
  cases h with
  | rejected _ hc => exact ⟨fun _ => ⟨rfl, rfl⟩, fun herr => absurd herr hc.1⟩
  | completed _ hdone => exact ⟨fun herr => absurd hdone.err herr, fun _ => hdone.errSticky⟩

/-! ## The first cause (R118) -/

/-- While BUSY, each command that checks it reports BUSY, whatever its operands. -/
theorem exec_busy {i : Instr} {s : State} (hb : s.rxState = .busy)
    (hi : (∃ len, i = .crcCompute .rx len) ∨ (∃ d len, i = .rxReadExact d len) ∨
      (∃ off, i = .decFloat32 off) ∨ i = .decReading) :
    exec i s = .next { s with err := .busy, errSticky := true } := by
  obtain ⟨len, rfl⟩ | ⟨d, len, rfl⟩ | ⟨off, rfl⟩ | rfl := hi
  · exact exec_crcCompute_busy len hb
  · exact exec_rxReadExact_busy d len hb
  · exact exec_decFloat32_busy off hb
  · exact exec_decReading_busy hb

/-- Only a BUSY state makes a command report BUSY: every other outcome writes a code of its own, or 0. -/
theorem busy_of_exec_err_busy {i : Instr} {s t : State} (h : exec i s = .next t) (herr : t.err = .busy) :
    s.rxState = .busy := by
  cases i with
  | crcInit => cases h; cases herr
  | crcByte b => cases h; cases herr
  | crcCompute src len =>
    obtain ⟨-, hb, -⟩ | ⟨-, -, rfl⟩ | ⟨-, -, bytes, -, rfl⟩ := execCrcCompute_cases h
    · exact hb
    all_goals cases herr
  | encReadReq dev start count =>
    obtain ⟨-, rfl⟩ | ⟨-, -, rfl⟩ := execEncReadReq_cases h
    all_goals cases herr
  | rxReadExact deadline len =>
    obtain ⟨hb, -⟩ | ⟨-, -, rfl⟩ | ⟨-, -, rfl⟩ := execRxReadExact_cases h
    · exact hb
    all_goals cases herr
  | decFloat32 off =>
    obtain ⟨hb, -⟩ | ⟨-, -, rfl⟩ | ⟨-, -, u, ord, -, rfl⟩ := execDecFloat32_cases h
    · exact hb
    all_goals cases herr
  | decReading =>
    obtain ⟨hb, -⟩ | ⟨-, -, rfl⟩ | ⟨-, -, r, orders, -, rfl⟩ := execDecReading_cases h
    · exact hb
    all_goals cases herr

/-- Settles O46: a command was rejected with one of its codes or is done, and the code is BUSY only in a BUSY
state. -/
theorem firstCauseIsReported : Obligations.FirstCauseIsReported := by
  refine ⟨fun w hw => illegal_of_decode_eq_none hw, fun i s hb hi => exec_busy hb hi, fun i s t h => ?_⟩
  have hbusy := busy_of_exec_err_busy h
  obtain ⟨c, hc, rfl⟩ | hdone := exec_cases h
  · exact .inr ⟨hc, hbusy⟩
  · exact .inl hdone.err

/-! ## A read in progress (R117, R140) -/

/-- The two states are at the same point of the same read: the reader unit's elements, and the configuration
its pending request is computed from (R91). -/
structure SameRead (s t : State) : Prop where
  rx : t.rx = s.rx
  rxCount : t.rxCount = s.rxCount
  rxExpected : t.rxExpected = s.rxExpected
  rxElapsed : t.rxElapsed = s.rxElapsed
  rxDeadline : t.rxDeadline = s.rxDeadline
  rxState : t.rxState = s.rxState
  shortReason : t.shortReason = s.shortReason
  cfg : t.cfg = s.cfg

theorem SameRead.pendingRequest {s t : State} (h : SameRead s t) : pendingRequest t = pendingRequest s := by
  simp only [Machine.pendingRequest, missingBytes, callTimeout, h.rxCount, h.rxExpected, h.rxElapsed,
    h.rxDeadline, h.rxState, h.cfg]

theorem sameRead_reject (c : ErrCode) (s : State) : SameRead s (reject c s) := by constructor <;> rfl

/-- While BUSY no command writes the reader unit: RX_READ_EXACT, the only one that does when it is done, is
rejected. -/
theorem sameRead_of_exec {i : Instr} {s t : State} (hb : s.rxState = .busy) (h : exec i s = .next t) :
    SameRead s t := by
  obtain ⟨c, -, rfl⟩ | hdone := exec_cases h
  · exact sameRead_reject c s
  · cases hdone with
    | @readStart deadline len =>
      have hreject := Host.Outcome.next.inj ((exec_rxReadExact_busy deadline len hb).symm.trans h)
      exact absurd (congrArg State.err hreject) nofun
    | crc => constructor <;> rfl
    | frame => constructor <;> rfl
    | field => constructor <;> rfl
    | reading => constructor <;> rfl

/-- Settles O30: the invariant makes every command complete, and while BUSY none writes the reader unit. -/
theorem commandsLeaveABusyReadAlone : Obligations.CommandsLeaveABusyReadAlone := by
  intro i s hinv hb
  obtain ⟨t, h⟩ := exec_next hinv i
  have hread := sameRead_of_exec hb h
  exact ⟨t, h, hread.rx, hread.rxCount, hread.rxExpected, hread.rxElapsed, hread.rxDeadline,
    hread.rxState.trans hb, hread.shortReason, hread.pendingRequest⟩

end Sys2Proof.Machine
end

section
/-! SUPPORT. Late answers (spec/70_reset_and_hazards.md R132, R133; spec/92_eei_decisions.md D32): an answer that
belongs to no pending request is taken off the inbox and changes nothing else. -/

namespace Sys2Proof.Machine

/-- The abandoned request's answer is discarded in every state, even while a later read is BUSY (R133). -/
theorem step_answerAbandoned {s : State} {a : Answer} {rest : List Event}
    (h : s.inbox = .answerAbandoned a :: rest) : step s = .next { s with inbox := rest } :=
  step_of_inbox_cons h

/-- Outside a read no request is pending, so the answer is unsolicited (D32). -/
theorem step_answer_of_not_busy {s : State} {a : Answer} {rest : List Event} (hb : s.rxState ≠ .busy)
    (h : s.inbox = .answer a :: rest) : step s = .next { s with inbox := rest } := by
  rw [step_answer h, respond_of_not_busy (by exact hb)]

theorem step_reset {s : State} {rest : List Event} (h : s.inbox = .reset :: rest) :
    step s = .next (resetBlock { s with inbox := rest }) := step_of_inbox_cons h

/-- Settles O29: an answer outside a read has no effect, and the state a reset leaves is outside a read. -/
theorem lateAnswersHaveNoEffect : Obligations.LateAnswersHaveNoEffect := by
  refine fun s rest a => ⟨step_answerAbandoned, step_answer_of_not_busy, fun hinbox => ?_⟩
  have hidle : (resetBlock { s with inbox := .answer a :: rest }).rxState ≠ .busy := by simp
  calc Host.Core.run Sys2Proof.core 2 s
      = Host.Core.run Sys2Proof.core 1 (resetBlock { s with inbox := .answer a :: rest }) :=
        run_succ_of_step (step_reset hinbox) 1
    _ = .next { resetBlock { s with inbox := .answer a :: rest } with inbox := rest } :=
        run_succ_of_step (step_answer_of_not_busy hidle (resetBlock_inbox _)) 0

end Sys2Proof.Machine
end

section
/-! SUPPORT. The words of spec/95_test_vectors.md section 8: a legal word is its command's encoding, and an
illegal one has a reserved opcode or a reserved bit set (R68). -/

namespace Sys2Proof.Machine

theorem decode_eq_some_iff {w : Word} {i : Instr} : decode w = some i ↔ encode i = w := by
  constructor
  · exact encodeOfDecode w i
  · rintro rfl
    exact decode_eq_iff.2 (decodesTo_encode i)

/-- Settles O1: the seven legal words encode their commands; the five illegal ones have opcode 0, bit 33 of
format C, bit 32 of format E, bit 48 of format R, and opcode 8. -/
theorem specWordsDecode : Obligations.SpecWordsDecode := by
  unfold Obligations.SpecWordsDecode
  simp only [decode_eq_some_iff]
  refine ⟨rfl, rfl, rfl, rfl, rfl, rfl, rfl, ?opcodeZero, ?formatC, ?formatE, ?formatR, ?opcodeHigh⟩
  all_goals apply decode_of_reservedWord
  case opcodeZero => exact .inl (.inl rfl)
  case formatC => exact .inr (.inr (.inr (.inl ⟨rfl, .inl (by decide)⟩)))
  case formatE => exact .inr (.inr (.inr (.inr (.inl ⟨rfl, .inr (by decide)⟩))))
  case formatR => exact .inr (.inr (.inr (.inr (.inr (.inl ⟨rfl, by decide⟩)))))
  case opcodeHigh => exact .inl (.inr (by decide))

end Sys2Proof.Machine
end
